-- ==== Sys2Proof/Word.lean ====
section
/-! DEFINITION. The two word types of the CORE: the 64-bit limb, which is also the host's data word,
and the 256-bit Unsigned256 (00_scope.md R9, 40_u256_primitive.md R100). -/

namespace Sys2Proof

/-- A limb of a value and a data word of the host port: `LIMB` = 64 bits (R9, R52). -/
abbrev U64 := BitVec 64

/-- An Unsigned256: `W` = 256 bits, read as an integer in [0, 2^256) (R9, R100). -/
abbrev U256 := BitVec 256

end Sys2Proof
end

