-- ==== Sys2Proof/Machine/Primitive.lean ====
section
/-! DEFINITION. The Unsigned256 datapath primitive (40_u256_primitive.md R100 to R112). None of it is
a command (R113): the field and point functions are built from it. -/

namespace Sys2Proof.Machine

/-- Wraparound add (R101). -/
def u256Add (a b : U256) : U256 := a + b

/-- Wraparound subtract (R102). -/
def u256Sub (a b : U256) : U256 := a - b

/-- Logical left shift by 0 to 255 (R103). The bound is in the type: U1 of
93_implementation_defined.md gives a larger shift no meaning (notes/assumptions/11.md). -/
def u256Shl (a : U256) (n : Fin 256) : U256 := a <<< n.val

/-- Logical right shift by 0 to 255 (R104). -/
def u256Shr (a : U256) (n : Fin 256) : U256 := a >>> n.val

/-- Bitwise AND (R105). -/
def u256And (a b : U256) : U256 := a &&& b

/-- Single-bit test of bit 0 to 255 (R106). -/
def u256Bit (a : U256) (i : Fin 256) : Bool := a.getLsbD i.val

/-- Unsigned order (R107). -/
def u256Lt (a b : U256) : Bool := a.toNat < b.toNat

/-- The number of bits at positions below `n`, counted down from `n - 1`, that lie above the highest
set one. -/
def clzBelow (a : U256) : Nat → Nat
  | 0 => 0
  | n + 1 => if a.getLsbD n then 0 else clzBelow a n + 1

/-- Count of leading zero bits, 256 for 0 (R108). -/
def u256Clz (a : U256) : Nat := clzBelow a 256

/-- `bitlen(a) = 256 - clz(a)` (00_scope.md R11, R108). -/
def bitlen (a : U256) : Nat := 256 - u256Clz a

/-- Widening multiply: the whole 512-bit product (R109). -/
def u256Mulw (a b : U256) : BitVec 512 := a.setWidth 512 * b.setWidth 512

/-- Remainder of an exact integer by a modulus P >= 1 (R110). The result is below P, so writing it in
256 bits loses nothing. For P = 0, which no rule reaches (R112), it keeps the low 256 bits of x. -/
def rem (x : Nat) (p : U256) : U256 := BitVec.ofNat 256 (x % p.toNat)

/-- `limb(v, j)`: bits 64j+63 to 64j (00_scope.md R11, 20_memory.md R54). -/
def limb (v : U256) (j : Fin 4) : U64 := v.extractLsb' (64 * j.val) 64

/-- v with limb j replaced, the other three unchanged, by the equation of 10_state.md R22. -/
def setLimb (v : U256) (j : Fin 4) (x : U64) : U256 :=
  BitVec.ofNat 256
    (v.toNat - (limb v j).toNat * 2 ^ (64 * j.val) + x.toNat * 2 ^ (64 * j.val))

end Sys2Proof.Machine
end

