-- ==== Sys2Proof/Config.lean ====
section
/-! DEFINITION. What one implementation of the CORE fixes (00_scope.md R9): the published modulus of
the point layer, and the three curve constants that the spec names as parameters with defaults. -/

namespace Sys2Proof

/-- `P25519` = 2^255 - 19, the fixed modulus of the point layer and the reset value of `MOD`
(R9, R28, R34). -/
def p25519 : U256 := 0x7fffffffffffffffffffffffffffffffffffffffffffffffffffffffffffffed#256

/-- The constants wired into the block whose values the source names and does not print
(R9, R34, R170, R173; decision D26).
PRESUMED (notes/assumptions/3.md): the default values are the standard Ed25519 ones, marked
'[from general knowledge, not in source]' in R9. Unsafe only for a claim that uses a default: the
machine reads the fields and no definition unfolds them. -/
structure Config where
  /-- `CURVE_D`, the curve parameter d. -/
  curveD : U256 := 0x52036cee2b6ffe738cc740797779e89800700a4d4141d8ab75eb4dca135978a3#256
  /-- `GEN_X`, the generator's x coordinate. -/
  genX : U256 := 0x216936d3cd6e53fec0a4e231fdd6dc5c692cc7609525a7b2c9562d608f25d51a#256
  /-- `GEN_Y`, the generator's y coordinate. -/
  genY : U256 := 0x6666666666666666666666666666666666666666666666666666666666666658#256
  deriving DecidableEq, Repr

/-- The defaults of R9. -/
def Config.default : Config := {}

end Sys2Proof
end

