-- ==== Sys2Proof/Machine/State.lean ====
section
/-! DEFINITION. The state of the CORE: the tuple of 10_state.md R20, which is all a host can observe
(R33), with the model's own fields beside it (the wired constants, the host's queue, the read
response); its reset value; and the reasons a step can stop. -/

namespace Sys2Proof.Machine

/-- The five errors of 60_exceptions.md R190. Raising one is a next state (R197, R207): the code is
held in `ERR` until the host clears it. -/
inductive CmdError where
  /-- Code 1: division with P <= 2, or an attempt to load the modulus 0 (R191). -/
  | invalidModulus
  /-- Code 2: division with a zero divisor, a zero denominator of the addition law (R192). -/
  | divisionByZero
  /-- Code 3: a negative integer literal (R193). -/
  | representationOverflow
  /-- Code 4: the written word matches no row of the opcode table (R194). -/
  | illegalCommand
  /-- Code 5: a source register that is not valid (R195). -/
  | invalidRegister
  deriving DecidableEq, Repr

/-- A pair of coordinates modulo `P25519` (R28). It need not be on the curve (R29). -/
structure Point where
  x : U256
  y : U256
  deriving DecidableEq, Repr

/-- One thing the host does at the port (00_scope.md R15, 20_memory.md R65, 70_reset_and_hazards.md
R220, R222). -/
inductive HostEvent where
  /-- `MemRead(a, 1)`. -/
  | read (a : BitVec 5)
  /-- `MemWrite(a, 1, v)`. -/
  | write (a : BitVec 5) (v : U64)
  /-- `rst_n` is asserted between transactions (R220). -/
  | reset
  /-- `rst_n` is asserted while the command that a write of `v` to `CMD` started is executing (R222). -/
  | resetDuringCommand (v : U64)
  deriving DecidableEq, Repr

/-- The machine. The first seven fields are the tuple of R20. -/
structure State where
  /-- `K[0..3]`, raw integers with no invariant (R21). -/
  k : Vector U256 4
  /-- `MOD`, the modulus of the field engine (R23, R24). -/
  modulus : U256
  /-- `F[0..7]`: `none` when `FV[i]` = 0, else the residue (R25, R26). DEDUCED (notes/assumptions/5.md):
  an invalid register's bits have no value in the model. -/
  f : Vector (Option U256) 8
  /-- `Q[0..3]`: `none` when `QV[i]` = 0, else the pair (R28, R29). -/
  q : Vector (Option Point) 4
  /-- `EQ`, the only flag (R30). -/
  eqFlag : Bool
  /-- `ERR`: `none` for 0, else the pending error (R32, R190). -/
  err : Option CmdError
  /-- `ECMD`, the word whose execution raised the pending error (R32, R59). -/
  ecmd : U64
  /-- The model's own: the constants wired into the block (R34, notes/assumptions/3.md). -/
  cfg : Config
  /-- The model's own: host events not yet served, oldest first (R61, notes/assumptions/1.md). -/
  pending : List HostEvent
  /-- The model's own: `rsp_rdata` when the last step served a read, else none (R65,
  notes/assumptions/2.md). -/
  rsp : Option U64
  deriving DecidableEq, Repr

/-- The machine never stops with a fault: "No host transaction is ever stuck: every read, write and
command completes", and each of the five errors is kept in `ERR`, which is a next state (R207,
notes/assumptions/9.md). So no constructor: nothing raises one. Safe, since a type with no values
cannot hide an outcome. -/
inductive Fault where
  deriving DecidableEq, Repr

/-- Why a step has no meaning. -/
inductive Refusal where
  /-- Raised only by an arm of `exec` whose instruction has no meaning yet. Safe: the run stops. No
  arm raises it in this model. -/
  | notModelled (mnemonic : String)
  deriving DecidableEq, Repr

/-- The machine right after reset (R35, R220): K all zero, `MOD` = 2^255 - 19, F and Q invalid,
`EQ`, `ERR` and `ECMD` zero. "No piece of state is left unspecified." The last three fields are the
model's own: the default constants (PRESUMED, notes/assumptions/3.md), no host event waiting and no
read response (DESIGN CHOICE, notes/assumptions/1.md and 2.md). -/
def State.reset : State where
  k := Vector.replicate 4 0#256
  modulus := p25519
  f := Vector.replicate 8 none
  q := Vector.replicate 4 none
  eqFlag := false
  err := none
  ecmd := 0#64
  cfg := Config.default
  pending := []
  rsp := none

end Sys2Proof.Machine
end

