-- ==== Sys2Proof/Machine/FieldFn.lean ====
section
/-! DEFINITION. The field functions over a modulus P (42_field.md R140 to R148, 00_scope.md R17), and
the source's two reference algorithms. Operands are canonical residues (R140): what these functions
give for others is never reached (notes/assumptions/7.md). -/

namespace Sys2Proof.Machine

/-- `(a + b) mod P`, the sum exact (R141, R111). -/
def fadd (a b p : U256) : U256 := rem (a.toNat + b.toNat) p

/-- `(a + P - b) mod P`, exact (R142, R111). For b < P the intermediate is positive. -/
def fsub (a b p : U256) : U256 := rem (a.toNat + p.toNat - b.toNat) p

/-- `(P - a) mod P` (R143). -/
def fneg (a p : U256) : U256 := rem (p.toNat - a.toNat) p

/-- `(a * b) mod P`, the product exact (R144). -/
def fmul (a b p : U256) : U256 := rem (u256Mulw a b).toNat p

/-- `(a * k) mod P` for a raw multiplier k, not reduced first (R144). -/
def fscale (a k p : U256) : U256 := rem (u256Mulw a k).toNat p

/-- The loop of R147 for bits n - 1 down to 0 of m. -/
def mulmodLoop (n m p : U256) : (i : Nat) → i ≤ 256 → U256 → U256
  | 0, _, acc => acc
  | i + 1, h, acc =>
    let doubled := rem (2 * acc.toNat) p
    mulmodLoop n m p i (Nat.le_of_succ_le h)
      (if u256Bit m ⟨i, h⟩ then rem (doubled.toNat + n.toNat) p else doubled)

/-- The source's multiply algorithm `mulmod_serial(n, m, P)` (R147). The machine does not use it: the
method is not architectural (R146). -/
def mulmodSerial (n m p : U256) : U256 :=
  mulmodLoop n m p (bitlen m) (Nat.sub_le 256 (u256Clz m)) 0#256

/-- The loop of R148 for bits i - 1 down to 0 of e. -/
def powmodLoop (a e p : U256) : (i : Nat) → i ≤ 256 → U256 → U256
  | 0, _, acc => acc
  | i + 1, h, acc =>
    let squared := rem (u256Mulw acc acc).toNat p
    powmodLoop a e p i (Nat.le_of_succ_le h)
      (if u256Bit e ⟨i, h⟩ then rem (u256Mulw squared a).toNat p else squared)

/-- The source's exponentiate algorithm `powmod(a, e, P)`, starting from `1 mod P` (R148). -/
def powmod (a e p : U256) : U256 :=
  powmodLoop a e p (bitlen e) (Nat.sub_le 256 (u256Clz e)) (rem 1 p)

/-- `(a ^ e) mod P` (R145), computed by R148. DEDUCED (notes/assumptions/10.md): R146 and R148 say the
two are the same function, and only this one can be evaluated for a 256-bit exponent. -/
def fpow (a e p : U256) : U256 := powmod a e p

/-- Division by a Fermat power, the test of the modulus before the test of the divisor (R145). -/
def fdiv (a b p : U256) : Except CmdError U256 :=
  if p.toNat ≤ 2 then .error .invalidModulus
  else if b = 0#256 then .error .divisionByZero
  else .ok (fmul a (fpow b (u256Sub p 2#256) p) p)

end Sys2Proof.Machine
end

