-- ==== Sys2Proof/Syntax.lean ====
section
/-! DEFINITION. The 22 commands of the opcode map (30_encoding.md R84), one constructor a row. A
register operand carries its class in its type, so a command whose index is out of range for its
class (R82) cannot be written down: such a word is illegal and never becomes an `Instr`. -/

namespace Sys2Proof

/-- A K index: `NK` = 4 raw registers (10_state.md R21). -/
abbrev KIdx := Fin 4

/-- An F index: `NF` = 8 field registers (R25). -/
abbrev FIdx := Fin 8

/-- A Q index: `NQ` = 4 point registers (R28). -/
abbrev QIdx := Fin 4

/-- A command. Operands stand in the order rd, rs1, rs2 or rd, rs1, imm16, leaving out the fields
the command does not use (R92). An `imm16` is the raw 16-bit field, two's complement (R85). -/
inductive Instr where
  /-- MODLD ks: load the modulus (R120). -/
  | modld (ks : KIdx)
  /-- FLD fd, ks: construct a field element (R121). -/
  | fld (fd : FIdx) (ks : KIdx)
  /-- FST kd, fs: copy a residue to a raw register (R122). -/
  | fst (kd : KIdx) (fs : FIdx)
  /-- FSETI fd, imm: convert an integer literal (R123). -/
  | fseti (fd : FIdx) (imm : BitVec 16)
  /-- PLD qd, ksx, ksy: construct a point (R124). -/
  | pld (qd : QIdx) (ksx ksy : KIdx)
  /-- PSTX kd, qs: copy a point's x coordinate (R125). -/
  | pstx (kd : KIdx) (qs : QIdx)
  /-- PSTY kd, qs: copy a point's y coordinate (R126). -/
  | psty (kd : KIdx) (qs : QIdx)
  /-- FADD fd, fs1, fs2: modular addition (R149). -/
  | fadd (fd fs1 fs2 : FIdx)
  /-- FSUB fd, fs1, fs2: modular subtraction (R150). -/
  | fsub (fd fs1 fs2 : FIdx)
  /-- FNEG fd, fs1: modular negation (R151). -/
  | fneg (fd fs1 : FIdx)
  /-- FMUL fd, fs1, fs2: modular multiplication (R152). -/
  | fmul (fd fs1 fs2 : FIdx)
  /-- FSCL fd, fs1, ks2: scale by a raw integer (R153). -/
  | fscl (fd fs1 : FIdx) (ks2 : KIdx)
  /-- FSCLI fd, fs1, imm: scale by an integer literal (R154). -/
  | fscli (fd fs1 : FIdx) (imm : BitVec 16)
  /-- FDIV fd, fs1, fs2: field division by Fermat inversion (R155). -/
  | fdiv (fd fs1 fs2 : FIdx)
  /-- FEXP fd, fs1, ks2: modular exponentiation (R157). -/
  | fexp (fd fs1 : FIdx) (ks2 : KIdx)
  /-- FEQ fs1, fs2: field equality (R156). -/
  | feq (fs1 fs2 : FIdx)
  /-- PIDN qd: write the identity point (R172). -/
  | pidn (qd : QIdx)
  /-- PGEN qd: write the generator point (R173). -/
  | pgen (qd : QIdx)
  /-- PADD qd, qs1, qs2: point addition (R175). -/
  | padd (qd qs1 qs2 : QIdx)
  /-- PNEG qd, qs1: point negation (R177). -/
  | pneg (qd qs1 : QIdx)
  /-- PSUB qd, qs1, qs2: point subtraction (R178). -/
  | psub (qd qs1 qs2 : QIdx)
  /-- PEQ qs1, qs2: point equality (R180). -/
  | peq (qs1 qs2 : QIdx)
  deriving DecidableEq, Repr

end Sys2Proof
end

