-- ==== Sys2Proof/WellFormed.lean ====
section
/-! DEFINITION. Which 64-bit values written to `CMD` are legal commands, check by check, from the
operand classes of 30_encoding.md R82, R84, R86 and R88. It does not use the match and mask columns
of R84, which the decoder uses, so that the two can be held against each other. Operands of an
`Instr` are typed by class, so every `Instr` is well-formed and it is the written word that can be
ill-formed. -/

namespace Sys2Proof

/-- What a 4-bit register field indexes (R82, R84); `unused` is the "-" of the table. -/
inductive RegClass where
  | k
  | f
  | q
  | unused
  deriving DecidableEq, Repr

/-- The two formats of R81. -/
inductive Format where
  /-- opcode, rd, rs1, rs2, zero. -/
  | r
  /-- opcode, rd, rs1, imm16. -/
  | i
  deriving DecidableEq, Repr

/-- One row of R84 without its match and mask columns. In the I-format `rs2` is not a field and the
row holds `unused` for it. -/
structure Shape where
  format : Format
  rd : RegClass
  rs1 : RegClass
  rs2 : RegClass
  deriving DecidableEq, Repr

/-- A field value is in range for its class: F in 0..7, K and Q in 0..3, unused 0 (R82). -/
def RegClass.admits (c : RegClass) (x : BitVec 4) : Bool :=
  match c with
  | .k => x.toNat < 4
  | .f => x.toNat < 8
  | .q => x.toNat < 4
  | .unused => x == 0#4

/-- The format and operand classes of an opcode, none for an unassigned one (R83, R84). -/
def shapeOf (opcode : BitVec 8) : Option Shape :=
  match opcode with
  | 0x10#8 => some ⟨.r, .unused, .k, .unused⟩
  | 0x11#8 => some ⟨.r, .f, .k, .unused⟩
  | 0x12#8 => some ⟨.r, .k, .f, .unused⟩
  | 0x13#8 => some ⟨.i, .f, .unused, .unused⟩
  | 0x14#8 => some ⟨.r, .q, .k, .k⟩
  | 0x15#8 => some ⟨.r, .k, .q, .unused⟩
  | 0x16#8 => some ⟨.r, .k, .q, .unused⟩
  | 0x20#8 => some ⟨.r, .f, .f, .f⟩
  | 0x21#8 => some ⟨.r, .f, .f, .f⟩
  | 0x22#8 => some ⟨.r, .f, .f, .unused⟩
  | 0x23#8 => some ⟨.r, .f, .f, .f⟩
  | 0x24#8 => some ⟨.r, .f, .f, .k⟩
  | 0x25#8 => some ⟨.i, .f, .f, .unused⟩
  | 0x26#8 => some ⟨.r, .f, .f, .f⟩
  | 0x27#8 => some ⟨.r, .f, .f, .k⟩
  | 0x28#8 => some ⟨.r, .unused, .f, .f⟩
  | 0x30#8 => some ⟨.r, .q, .unused, .unused⟩
  | 0x31#8 => some ⟨.r, .q, .unused, .unused⟩
  | 0x32#8 => some ⟨.r, .q, .q, .q⟩
  | 0x33#8 => some ⟨.r, .q, .q, .unused⟩
  | 0x34#8 => some ⟨.r, .q, .q, .q⟩
  | 0x35#8 => some ⟨.r, .unused, .q, .q⟩
  | _ => none

/-- Bits 63:32 of the written data are 0 (R88). -/
def upperHalfZero (w : U64) : Bool := w.extractLsb' 32 32 == 0#32

/-- The opcode byte is one of the 22 assigned values (R86). -/
def opcodeAssigned (w : BitVec 32) : Bool := (shapeOf (w.extractLsb' 24 8)).isSome

/-- Each register field is in range for its class, an unused one 0 (R82, R86). -/
def Shape.fieldsInClass (sh : Shape) (w : BitVec 32) : Bool :=
  sh.rd.admits (w.extractLsb' 20 4) && sh.rs1.admits (w.extractLsb' 16 4) &&
    (sh.format == .i || sh.rs2.admits (w.extractLsb' 12 4))

/-- Bits 11:0 of an R-format word are 0 (R81, R86). -/
def Shape.lowBitsZero (sh : Shape) (w : BitVec 32) : Bool :=
  sh.format == .i || w.extractLsb' 0 12 == 0#12

/-- The 32-bit word is a legal command (R86, without the upper half). -/
def wordWellFormed (w : BitVec 32) : Bool :=
  match shapeOf (w.extractLsb' 24 8) with
  | none => false
  | some sh => sh.fieldsInClass w && sh.lowBitsZero w

/-- The 64-bit value written to `CMD` is a legal command (R86, R88). -/
def wellFormed (w : U64) : Bool := upperHalfZero w && wordWellFormed (w.setWidth 32)

end Sys2Proof
end

