-- ==== Sys2Proof/Decode.lean ====
section
/-! DEFINITION. The decoder, from the match and mask columns of 30_encoding.md R84 ("a decoder needs
nothing but this table"), total on every 64-bit value written to `CMD` (R87) and rejecting by name;
and after it the encoder, from the formats of R81. -/

namespace Sys2Proof

/-! ### Field extraction (R81) -/

/-- The opcode byte, bits 31:24. -/
def opcodeField (w : BitVec 32) : BitVec 8 := w.extractLsb' 24 8

/-- The rd field, bits 23:20. -/
def rdField (w : BitVec 32) : BitVec 4 := w.extractLsb' 20 4

/-- The rs1 field, bits 19:16. -/
def rs1Field (w : BitVec 32) : BitVec 4 := w.extractLsb' 16 4

/-- The rs2 field, bits 15:12. -/
def rs2Field (w : BitVec 32) : BitVec 4 := w.extractLsb' 12 4

/-- The imm16 field, bits 15:0 of an I-format word. -/
def imm16Field (w : BitVec 32) : BitVec 16 := w.extractLsb' 0 16

/-- A field as an index of the K or Q file: its low two bits, bits 3:2 being 0 in a legal word (R82). -/
def index4 (x : BitVec 4) : Fin 4 := Fin.ofNat 4 x.toNat

/-- A field as an index of the F file: its low three bits, bit 3 being 0 in a legal word (R82). -/
def index8 (x : BitVec 4) : Fin 8 := Fin.ofNat 8 x.toNat

/-! ### The opcode table (R84) -/

/-- One row of R84: it selects the word w when `w AND mask = match`. -/
structure Row where
  mnemonic : String
  pattern : BitVec 32
  mask : BitVec 32
  build : BitVec 32 → Instr

/-- `w AND mask = match` (R84). -/
def Row.selects (r : Row) (w : BitVec 32) : Bool := w &&& r.mask == r.pattern

/-- Construct and move, 0x10 to 0x16 (R83). -/
def moveRows : List Row :=
  [ ⟨"MODLD", 0x10000000, 0xfffcffff, fun w => .modld (index4 (rs1Field w))⟩,
    ⟨"FLD",   0x11000000, 0xff8cffff, fun w => .fld (index8 (rdField w)) (index4 (rs1Field w))⟩,
    ⟨"FST",   0x12000000, 0xffc8ffff, fun w => .fst (index4 (rdField w)) (index8 (rs1Field w))⟩,
    ⟨"FSETI", 0x13000000, 0xff8f0000, fun w => .fseti (index8 (rdField w)) (imm16Field w)⟩,
    ⟨"PLD",   0x14000000, 0xffcccfff,
      fun w => .pld (index4 (rdField w)) (index4 (rs1Field w)) (index4 (rs2Field w))⟩,
    ⟨"PSTX",  0x15000000, 0xffccffff, fun w => .pstx (index4 (rdField w)) (index4 (rs1Field w))⟩,
    ⟨"PSTY",  0x16000000, 0xffccffff, fun w => .psty (index4 (rdField w)) (index4 (rs1Field w))⟩ ]

/-- The field engine, 0x20 to 0x28 (R83). -/
def fieldRows : List Row :=
  [ ⟨"FADD",  0x20000000, 0xff888fff,
      fun w => .fadd (index8 (rdField w)) (index8 (rs1Field w)) (index8 (rs2Field w))⟩,
    ⟨"FSUB",  0x21000000, 0xff888fff,
      fun w => .fsub (index8 (rdField w)) (index8 (rs1Field w)) (index8 (rs2Field w))⟩,
    ⟨"FNEG",  0x22000000, 0xff88ffff, fun w => .fneg (index8 (rdField w)) (index8 (rs1Field w))⟩,
    ⟨"FMUL",  0x23000000, 0xff888fff,
      fun w => .fmul (index8 (rdField w)) (index8 (rs1Field w)) (index8 (rs2Field w))⟩,
    ⟨"FSCL",  0x24000000, 0xff88cfff,
      fun w => .fscl (index8 (rdField w)) (index8 (rs1Field w)) (index4 (rs2Field w))⟩,
    ⟨"FSCLI", 0x25000000, 0xff880000,
      fun w => .fscli (index8 (rdField w)) (index8 (rs1Field w)) (imm16Field w)⟩,
    ⟨"FDIV",  0x26000000, 0xff888fff,
      fun w => .fdiv (index8 (rdField w)) (index8 (rs1Field w)) (index8 (rs2Field w))⟩,
    ⟨"FEXP",  0x27000000, 0xff88cfff,
      fun w => .fexp (index8 (rdField w)) (index8 (rs1Field w)) (index4 (rs2Field w))⟩,
    ⟨"FEQ",   0x28000000, 0xfff88fff, fun w => .feq (index8 (rs1Field w)) (index8 (rs2Field w))⟩ ]

/-- The point layer, 0x30 to 0x35 (R83). -/
def pointRows : List Row :=
  [ ⟨"PIDN", 0x30000000, 0xffcfffff, fun w => .pidn (index4 (rdField w))⟩,
    ⟨"PGEN", 0x31000000, 0xffcfffff, fun w => .pgen (index4 (rdField w))⟩,
    ⟨"PADD", 0x32000000, 0xffcccfff,
      fun w => .padd (index4 (rdField w)) (index4 (rs1Field w)) (index4 (rs2Field w))⟩,
    ⟨"PNEG", 0x33000000, 0xffccffff, fun w => .pneg (index4 (rdField w)) (index4 (rs1Field w))⟩,
    ⟨"PSUB", 0x34000000, 0xffcccfff,
      fun w => .psub (index4 (rdField w)) (index4 (rs1Field w)) (index4 (rs2Field w))⟩,
    ⟨"PEQ",  0x35000000, 0xfffccfff, fun w => .peq (index4 (rs1Field w)) (index4 (rs2Field w))⟩ ]

/-- The complete map (R84). -/
def opcodeTable : List Row := moveRows ++ fieldRows ++ pointRows

/-! ### Decoding (R86, R87, R88) -/

/-- Why a written value is illegal (the cases of R86). The hardware tells a host only
IllegalCommand; the name serves a reader (notes/assumptions/13.md). -/
inductive Reject where
  /-- Bits 63:32 of the written data are not 0 (R88). -/
  | upperHalfNonzero
  /-- The opcode byte is not one of the 22 assigned values. -/
  | unassignedOpcode
  /-- A register field is out of range for its class, or an unused one is not 0. -/
  | fieldOutOfClass
  /-- Bits 11:0 of an R-format word are not 0. -/
  | lowBitsNonzero
  deriving DecidableEq, Repr

/-- The command a 32-bit word encodes, none when no row selects it (R84, R87). -/
def decodeWord (w : BitVec 32) : Option Instr :=
  (opcodeTable.find? (fun r => r.selects w)).map (fun r => r.build w)

/-- The name of the first case of R86 that a word selected by no row falls under. -/
def whyIllegal (w : BitVec 32) : Reject :=
  match shapeOf (opcodeField w) with
  | none => .unassignedOpcode
  | some sh => if sh.fieldsInClass w then .lowBitsNonzero else .fieldOutOfClass

/-- Step 1 of `execute(w)` (R89): the command a 64-bit value written to `CMD` stands for. -/
def decode (w : U64) : Except Reject Instr :=
  if w.extractLsb' 32 32 ≠ 0#32 then .error .upperHalfNonzero
  else
    match decodeWord (w.setWidth 32) with
    | some i => .ok i
    | none => .error (whyIllegal (w.setWidth 32))

/-- The host's probe: the instruction the decoder reads from the word of opcode-table bits `w`. A
command is one 32-bit word carried in bits 31:0 of the data of one write to `CMD` (R80), so there is
no layout in bytes and nothing above bit 31. -/
def decodeTableWord (nbits w : Nat) : Option Instr :=
  match decode (BitVec.ofNat 64 (w % 2 ^ nbits)) with
  | .ok i => some i
  | .error _ => none

/-! ### Encoding (R81, R84) -/

/-- A field of a w-bit word whose bit 0 lies at bit `lo` of the word, the other bits 0 (R81). -/
def fieldAt {n : Nat} (w lo : Nat) (x : BitVec n) : BitVec w := x.setWidth w <<< lo

/-- An R-format word: opcode, rd, rs1, rs2, twelve zero bits (R81). -/
def rFormat (opcode : BitVec 8) (rd rs1 rs2 : Nat) : BitVec 32 :=
  fieldAt 32 24 opcode ||| fieldAt 32 20 (BitVec.ofNat 4 rd) ||| fieldAt 32 16 (BitVec.ofNat 4 rs1) |||
    fieldAt 32 12 (BitVec.ofNat 4 rs2)

/-- An I-format word: opcode, rd, rs1, imm16 (R81). -/
def iFormat (opcode : BitVec 8) (rd rs1 : Nat) (imm : BitVec 16) : BitVec 32 :=
  fieldAt 32 24 opcode ||| fieldAt 32 20 (BitVec.ofNat 4 rd) ||| fieldAt 32 16 (BitVec.ofNat 4 rs1) |||
    fieldAt 32 0 imm

/-- The word of a command: its opcode, its operands in their fields, every unused field 0
(R81, R82, R84). -/
def encode (i : Instr) : BitVec 32 :=
  match i with
  | .modld ks => rFormat 0x10 0 ks 0
  | .fld fd ks => rFormat 0x11 fd ks 0
  | .fst kd fs => rFormat 0x12 kd fs 0
  | .fseti fd imm => iFormat 0x13 fd 0 imm
  | .pld qd ksx ksy => rFormat 0x14 qd ksx ksy
  | .pstx kd qs => rFormat 0x15 kd qs 0
  | .psty kd qs => rFormat 0x16 kd qs 0
  | .fadd fd fs1 fs2 => rFormat 0x20 fd fs1 fs2
  | .fsub fd fs1 fs2 => rFormat 0x21 fd fs1 fs2
  | .fneg fd fs1 => rFormat 0x22 fd fs1 0
  | .fmul fd fs1 fs2 => rFormat 0x23 fd fs1 fs2
  | .fscl fd fs1 ks2 => rFormat 0x24 fd fs1 ks2
  | .fscli fd fs1 imm => iFormat 0x25 fd fs1 imm
  | .fdiv fd fs1 fs2 => rFormat 0x26 fd fs1 fs2
  | .fexp fd fs1 ks2 => rFormat 0x27 fd fs1 ks2
  | .feq fs1 fs2 => rFormat 0x28 0 fs1 fs2
  | .pidn qd => rFormat 0x30 qd 0 0
  | .pgen qd => rFormat 0x31 qd 0 0
  | .padd qd qs1 qs2 => rFormat 0x32 qd qs1 qs2
  | .pneg qd qs1 => rFormat 0x33 qd qs1 0
  | .psub qd qs1 qs2 => rFormat 0x34 qd qs1 qs2
  | .peq qs1 qs2 => rFormat 0x35 0 qs1 qs2

/-- The 64-bit value whose write to `CMD` issues the command: its word zero-extended (R80, R92). -/
def commandWord (i : Instr) : U64 := (encode i).setWidth 64

end Sys2Proof
end

