-- ==== Sys2Proof/Machine/Flags.lean ====
section
/-! DEFINITION. The flag `EQ` (10_state.md R30), the error codes (60_exceptions.md R190) and the
`STATUS` word (20_memory.md R58). -/

namespace Sys2Proof.Machine

/-- `EQ <- b`, the only flag write there is (R30). -/
def State.setEq (s : State) (b : Bool) : State := { s with eqFlag := b }

/-- The code of an error (R190). -/
def CmdError.code (e : CmdError) : BitVec 4 :=
  match e with
  | .invalidModulus => 1#4
  | .divisionByZero => 2#4
  | .representationOverflow => 3#4
  | .illegalCommand => 4#4
  | .invalidRegister => 5#4

/-- The 4 bits of `ERR`, 0 when no error is pending (R190). -/
def State.errCode (s : State) : BitVec 4 :=
  match s.err with
  | none => 0#4
  | some e => e.code

/-- One bit of a w-bit word, at position `i`. -/
def bitAt (w i : Nat) (b : Bool) : BitVec w := fieldAt w i (BitVec.ofBool b)

/-- The valid bits `FV[7:0]`: bit i is 1 when `F[i]` is valid (R58). -/
def State.fv (s : State) : BitVec 8 :=
  bitAt 8 0 s.f[0].isSome ||| bitAt 8 1 s.f[1].isSome ||| bitAt 8 2 s.f[2].isSome |||
    bitAt 8 3 s.f[3].isSome ||| bitAt 8 4 s.f[4].isSome ||| bitAt 8 5 s.f[5].isSome |||
    bitAt 8 6 s.f[6].isSome ||| bitAt 8 7 s.f[7].isSome

/-- The valid bits `QV[3:0]`: bit i is 1 when `Q[i]` is valid (R58). -/
def State.qv (s : State) : BitVec 4 :=
  bitAt 4 0 s.q[0].isSome ||| bitAt 4 1 s.q[1].isSome ||| bitAt 4 2 s.q[2].isSome |||
    bitAt 4 3 s.q[3].isSome

/-- `STATUS`: `EQ` in bit 0, `ERR` in 7:4, `FV` in 15:8, `QV` in 19:16, the rest 0 (R58). -/
def State.statusWord (s : State) : U64 :=
  bitAt 64 0 s.eqFlag ||| fieldAt 64 4 s.errCode ||| fieldAt 64 8 s.fv ||| fieldAt 64 16 s.qv

end Sys2Proof.Machine
end

