-- ==== Sys2Proof/Machine/Operands.lean ====
section
/-! DEFINITION. The operand forms: an F source, a Q source, a K source, an integer literal
(30_encoding.md R82, R85, R89). -/

namespace Sys2Proof.Machine

/-- A source of class F: its residue, or InvalidRegister (R89 step 2, R195). -/
def State.fSource (s : State) (i : FIdx) : Except CmdError U256 :=
  match s.f[i] with
  | some a => .ok a
  | none => .error .invalidRegister

/-- A source of class Q: its pair, or InvalidRegister (R89 step 2, R195). -/
def State.qSource (s : State) (i : QIdx) : Except CmdError Point :=
  match s.q[i] with
  | some p => .ok p
  | none => .error .invalidRegister

/-- A source of class K, which always holds a value (R89). -/
def State.kSource (s : State) (i : KIdx) : U256 := s.k[i]

/-- The integer literal of an I-format word: `sext16(imm16)`, which must be representable as an
Unsigned256, so not negative (R85, R193). -/
def literal (imm : BitVec 16) : Except CmdError U256 :=
  if imm.toInt < 0 then .error .representationOverflow
  else .ok (BitVec.ofNat 256 imm.toInt.toNat)

end Sys2Proof.Machine
end

