-- ==== Sys2Proof/Machine/Ops.lean ====
section
/-! DEFINITION. The named operations over the registers: every write a command or the host makes, and
raising an error and clearing it (60_exceptions.md R197, R201), each in one place. -/

namespace Sys2Proof.Machine

/-- `K[i] <- v` (00_scope.md R14). -/
def State.setK (s : State) (i : KIdx) (v : U256) : State := { s with k := s.k.set i v }

/-- A host write to one limb of `K[i]` (10_state.md R22). -/
def State.setKLimb (s : State) (i : KIdx) (j : Fin 4) (v : U64) : State :=
  s.setK i (setLimb s.k[i] j v)

/-- `F[i] <- v`, which also sets the register valid (00_scope.md R14). -/
def State.setF (s : State) (i : FIdx) (v : U256) : State := { s with f := s.f.set i (some v) }

/-- `Q[i] <- (x, y)`, which also sets the register valid (00_scope.md R14). -/
def State.setQ (s : State) (i : QIdx) (p : Point) : State := { s with q := s.q.set i (some p) }

/-- `MOD <- v`; every field register becomes invalid (41_move.md R120). -/
def State.loadModulus (s : State) (v : U256) : State :=
  { s with modulus := v, f := Vector.replicate 8 none }

/-- `raise E` while the word `w` executes: `ERR` and `ECMD`, and nothing else (R197). -/
def State.raise (s : State) (e : CmdError) (w : U64) : State :=
  { s with err := some e, ecmd := w }

/-- The return from the error latch: `ERR <- 0`, `ECMD <- 0`, and nothing else (R60, R201). -/
def State.clearError (s : State) : State := { s with err := none, ecmd := 0#64 }

/-- The state of R220, keeping what reset does not reach: the wired constants (R34) and the host
events still to come (notes/assumptions/4.md). -/
def State.afterReset (s : State) : State :=
  { State.reset with cfg := s.cfg, pending := s.pending }

/-- Steps 3 and 4 of `execute(w)` for a decoded command (30_encoding.md R89): its writes happen
together, or its error is raised on the state before it. The word recorded is the command's own,
the only legal one that decodes to it (notes/assumptions/6.md). -/
def retire (i : Instr) (s : State) (r : Except CmdError State) :
    Host.Outcome State Fault Refusal :=
  match r with
  | .ok t => .next t
  | .error e => .next (s.raise e (commandWord i))

end Sys2Proof.Machine
end

