-- ==== Sys2Proof/Machine/Field.lean ====
section
/-! DEFINITION. The field commands, 0x20 to 0x28 (42_field.md). P is the value of `MOD` when the
command executes (R140). -/

namespace Sys2Proof.Machine

/-- FADD fd, fs1, fs2 (R149). -/
def execFadd (fd fs1 fs2 : FIdx) (s : State) : Host.Outcome State Fault Refusal :=
  retire (.fadd fd fs1 fs2) s <| do
    let a ← s.fSource fs1
    let b ← s.fSource fs2
    return s.setF fd (fadd a b s.modulus)

/-- FSUB fd, fs1, fs2 (R150). -/
def execFsub (fd fs1 fs2 : FIdx) (s : State) : Host.Outcome State Fault Refusal :=
  retire (.fsub fd fs1 fs2) s <| do
    let a ← s.fSource fs1
    let b ← s.fSource fs2
    return s.setF fd (fsub a b s.modulus)

/-- FNEG fd, fs1 (R151). -/
def execFneg (fd fs1 : FIdx) (s : State) : Host.Outcome State Fault Refusal :=
  retire (.fneg fd fs1) s <| do
    let a ← s.fSource fs1
    return s.setF fd (fneg a s.modulus)

/-- FMUL fd, fs1, fs2 (R152). -/
def execFmul (fd fs1 fs2 : FIdx) (s : State) : Host.Outcome State Fault Refusal :=
  retire (.fmul fd fs1 fs2) s <| do
    let a ← s.fSource fs1
    let b ← s.fSource fs2
    return s.setF fd (fmul a b s.modulus)

/-- FSCL fd, fs1, ks2 (R153). -/
def execFscl (fd fs1 : FIdx) (ks2 : KIdx) (s : State) : Host.Outcome State Fault Refusal :=
  retire (.fscl fd fs1 ks2) s <| do
    let a ← s.fSource fs1
    return s.setF fd (fscale a (s.kSource ks2) s.modulus)

/-- FSCLI fd, fs1, imm: the source's validity before the literal's sign (R154, R199). -/
def execFscli (fd fs1 : FIdx) (imm : BitVec 16) (s : State) :
    Host.Outcome State Fault Refusal :=
  retire (.fscli fd fs1 imm) s <| do
    let a ← s.fSource fs1
    let k ← literal imm
    return s.setF fd (fscale a k s.modulus)

/-- FDIV fd, fs1, fs2 (R155). -/
def execFdiv (fd fs1 fs2 : FIdx) (s : State) : Host.Outcome State Fault Refusal :=
  retire (.fdiv fd fs1 fs2) s <| do
    let a ← s.fSource fs1
    let b ← s.fSource fs2
    let v ← fdiv a b s.modulus
    return s.setF fd v

/-- FEXP fd, fs1, ks2 (R157). -/
def execFexp (fd fs1 : FIdx) (ks2 : KIdx) (s : State) : Host.Outcome State Fault Refusal :=
  retire (.fexp fd fs1 ks2) s <| do
    let a ← s.fSource fs1
    return s.setF fd (fpow a (s.kSource ks2) s.modulus)

/-- FEQ fs1, fs2 (R156). -/
def execFeq (fs1 fs2 : FIdx) (s : State) : Host.Outcome State Fault Refusal :=
  retire (.feq fs1 fs2) s <| do
    let a ← s.fSource fs1
    let b ← s.fSource fs2
    return s.setEq (a == b)

end Sys2Proof.Machine
end

