-- ==== Sys2Proof/Machine/Curve.lean ====
section
/-! DEFINITION. The point functions modulo `P25519` (43_point.md R170 to R178), built from the field
functions "exclusively". The curve parameter d is an argument. -/

namespace Sys2Proof.Machine

/-- The identity (0, 1) (R172). -/
def identityPoint : Point := ⟨0#256, 1#256⟩

/-- `t = d·x1·x2·y1·y2` (R174). -/
def crossTerm (d : U256) (p1 p2 : Point) : U256 :=
  fmul (fmul (fmul (fmul d p1.x p25519) p2.x p25519) p1.y p25519) p2.y p25519

/-- The unified addition law; a zero denominator raises DivisionByZero from the field division, the
one of x first (R174, R179). -/
def padd (d : U256) (p1 p2 : Point) : Except CmdError Point := do
  let t := crossTerm d p1 p2
  let nx := fadd (fmul p1.x p2.y p25519) (fmul p1.y p2.x p25519) p25519
  let ny := fadd (fmul p1.y p2.y p25519) (fmul p1.x p2.x p25519) p25519
  let x3 ← fdiv nx (fadd 1#256 t p25519) p25519
  let y3 ← fdiv ny (fsub 1#256 t p25519) p25519
  return ⟨x3, y3⟩

/-- `(x, y) → (−x, y)` (R177). -/
def pneg (p : Point) : Point := ⟨fneg p.x p25519, p.y⟩

/-- `subtract(p1, p2) = add(p1, negate(p2))` (R178). -/
def psub (d : U256) (p1 p2 : Point) : Except CmdError Point := padd d p1 (pneg p2)

/-- A raw pair as a point, both coordinates canonicalized (41_move.md R124). -/
def pointOfRaw (x y : U256) : Point := ⟨rem x.toNat p25519, rem y.toNat p25519⟩

end Sys2Proof.Machine
end

