-- ==== Sys2Proof/Machine/Move.lean ====
section
/-! DEFINITION. The construction and move commands, 0x10 to 0x16 (41_move.md). -/

namespace Sys2Proof.Machine

/-- MODLD ks (R120). -/
def execModld (ks : KIdx) (s : State) : Host.Outcome State Fault Refusal :=
  retire (.modld ks) s <|
    if s.kSource ks = 0#256 then .error .invalidModulus
    else .ok (s.loadModulus (s.kSource ks))

/-- FLD fd, ks (R121). -/
def execFld (fd : FIdx) (ks : KIdx) (s : State) : Host.Outcome State Fault Refusal :=
  retire (.fld fd ks) s <| .ok (s.setF fd (rem (s.kSource ks).toNat s.modulus))

/-- FST kd, fs (R122). -/
def execFst (kd : KIdx) (fs : FIdx) (s : State) : Host.Outcome State Fault Refusal :=
  retire (.fst kd fs) s <| do
    let a ← s.fSource fs
    return s.setK kd a

/-- FSETI fd, imm (R123). -/
def execFseti (fd : FIdx) (imm : BitVec 16) (s : State) : Host.Outcome State Fault Refusal :=
  retire (.fseti fd imm) s <| do
    let v ← literal imm
    return s.setF fd (rem v.toNat s.modulus)

/-- PLD qd, ksx, ksy (R124). -/
def execPld (qd : QIdx) (ksx ksy : KIdx) (s : State) : Host.Outcome State Fault Refusal :=
  retire (.pld qd ksx ksy) s <| .ok (s.setQ qd (pointOfRaw (s.kSource ksx) (s.kSource ksy)))

/-- PSTX kd, qs (R125). -/
def execPstx (kd : KIdx) (qs : QIdx) (s : State) : Host.Outcome State Fault Refusal :=
  retire (.pstx kd qs) s <| do
    let p ← s.qSource qs
    return s.setK kd p.x

/-- PSTY kd, qs (R126). -/
def execPsty (kd : KIdx) (qs : QIdx) (s : State) : Host.Outcome State Fault Refusal :=
  retire (.psty kd qs) s <| do
    let p ← s.qSource qs
    return s.setK kd p.y

end Sys2Proof.Machine
end

