-- ==== Sys2Proof/Machine/PointCmd.lean ====
section
/-! DEFINITION. The point commands, 0x30 to 0x35 (43_point.md), always modulo `P25519`; `MOD` plays no
part. -/

namespace Sys2Proof.Machine

/-- PIDN qd (R172). -/
def execPidn (qd : QIdx) (s : State) : Host.Outcome State Fault Refusal :=
  retire (.pidn qd) s <| .ok (s.setQ qd identityPoint)

/-- PGEN qd (R173). -/
def execPgen (qd : QIdx) (s : State) : Host.Outcome State Fault Refusal :=
  retire (.pgen qd) s <| .ok (s.setQ qd ⟨s.cfg.genX, s.cfg.genY⟩)

/-- PADD qd, qs1, qs2 (R175). -/
def execPadd (qd qs1 qs2 : QIdx) (s : State) : Host.Outcome State Fault Refusal :=
  retire (.padd qd qs1 qs2) s <| do
    let p1 ← s.qSource qs1
    let p2 ← s.qSource qs2
    let p ← padd s.cfg.curveD p1 p2
    return s.setQ qd p

/-- PNEG qd, qs1 (R177). -/
def execPneg (qd qs1 : QIdx) (s : State) : Host.Outcome State Fault Refusal :=
  retire (.pneg qd qs1) s <| do
    let p ← s.qSource qs1
    return s.setQ qd (pneg p)

/-- PSUB qd, qs1, qs2 (R178). -/
def execPsub (qd qs1 qs2 : QIdx) (s : State) : Host.Outcome State Fault Refusal :=
  retire (.psub qd qs1 qs2) s <| do
    let p1 ← s.qSource qs1
    let p2 ← s.qSource qs2
    let p ← psub s.cfg.curveD p1 p2
    return s.setQ qd p

/-- PEQ qs1, qs2 (R180). -/
def execPeq (qs1 qs2 : QIdx) (s : State) : Host.Outcome State Fault Refusal :=
  retire (.peq qs1 qs2) s <| do
    let p1 ← s.qSource qs1
    let p2 ← s.qSource qs2
    return s.setEq (p1.x == p2.x && p1.y == p2.y)

end Sys2Proof.Machine
end

