-- ==== Sys2Proof/Machine/Dispatch.lean ====
section
/-! DEFINITION. Step 3 and 4 of `execute(w)` (30_encoding.md R89): one arm per command. It is called
for a decoded command while no error is pending; the latch (R57) is tested where `CMD` is written. -/

namespace Sys2Proof.Machine

def exec (i : Instr) (s : State) : Host.Outcome State Fault Refusal :=
  match i with
  | .modld ks => Sys2Proof.Machine.execModld ks s
  | .fld fd ks => Sys2Proof.Machine.execFld fd ks s
  | .fst kd fs => Sys2Proof.Machine.execFst kd fs s
  | .fseti fd imm => Sys2Proof.Machine.execFseti fd imm s
  | .pld qd ksx ksy => Sys2Proof.Machine.execPld qd ksx ksy s
  | .pstx kd qs => Sys2Proof.Machine.execPstx kd qs s
  | .psty kd qs => Sys2Proof.Machine.execPsty kd qs s
  | .fadd fd fs1 fs2 => Sys2Proof.Machine.execFadd fd fs1 fs2 s
  | .fsub fd fs1 fs2 => Sys2Proof.Machine.execFsub fd fs1 fs2 s
  | .fneg fd fs1 => Sys2Proof.Machine.execFneg fd fs1 s
  | .fmul fd fs1 fs2 => Sys2Proof.Machine.execFmul fd fs1 fs2 s
  | .fscl fd fs1 ks2 => Sys2Proof.Machine.execFscl fd fs1 ks2 s
  | .fscli fd fs1 imm => Sys2Proof.Machine.execFscli fd fs1 imm s
  | .fdiv fd fs1 fs2 => Sys2Proof.Machine.execFdiv fd fs1 fs2 s
  | .fexp fd fs1 ks2 => Sys2Proof.Machine.execFexp fd fs1 ks2 s
  | .feq fs1 fs2 => Sys2Proof.Machine.execFeq fs1 fs2 s
  | .pidn qd => Sys2Proof.Machine.execPidn qd s
  | .pgen qd => Sys2Proof.Machine.execPgen qd s
  | .padd qd qs1 qs2 => Sys2Proof.Machine.execPadd qd qs1 qs2 s
  | .pneg qd qs1 => Sys2Proof.Machine.execPneg qd qs1 s
  | .psub qd qs1 qs2 => Sys2Proof.Machine.execPsub qd qs1 qs2 s
  | .peq qs1 qs2 => Sys2Proof.Machine.execPeq qs1 qs2 s

end Sys2Proof.Machine
end

