-- ==== Sys2Proof/Machine/Port.lean ====
section
/-! DEFINITION. The host port: the address map, reads, writes, the `CMD` write with the error latch,
reset (20_memory.md R50 to R62, 60_exceptions.md R200, 70_reset_and_hazards.md R220, R222). -/

namespace Sys2Proof.Machine

/-! ### Named word addresses (R51) -/

/-- `K[i].limb[j]` is at word address `4*i + j`, 0x00 to 0x0F (R51). -/
def addrK (i : KIdx) (j : Fin 4) : BitVec 5 := BitVec.ofNat 5 (4 * i.val + j.val)

/-- `MOD.limb[j]` is at 0x10 + j (R51). -/
def addrMod (j : Fin 4) : BitVec 5 := BitVec.ofNat 5 (0x10 + j.val)

/-- `CMD` (R57). -/
def addrCmd : BitVec 5 := 0x14#5

/-- `STATUS` (R58). -/
def addrStatus : BitVec 5 := 0x15#5

/-- `ECMD` (R59). -/
def addrEcmd : BitVec 5 := 0x16#5

/-- `ERRCLR` (R60). -/
def addrErrclr : BitVec 5 := 0x17#5

/-- The K register a word address below 0x10 lies in. -/
def kIndexOf (a : BitVec 5) : KIdx := Fin.ofNat 4 (a.toNat / 4)

/-- The limb a word address below 0x14 names. -/
def limbIndexOf (a : BitVec 5) : Fin 4 := Fin.ofNat 4 a.toNat

/-! ### Transactions -/

/-- `MemRead(a, 1)` (R51, R53, R54 to R60): the word at `a`. A write-only or reserved address reads
as 0. A read changes no state, so it has no state result. -/
def hostRead (s : State) (a : BitVec 5) : U64 :=
  if a.toNat < 0x10 then limb s.k[kIndexOf a] (limbIndexOf a)
  else if a.toNat < 0x14 then limb s.modulus (limbIndexOf a)
  else if a = addrStatus then s.statusWord
  else if a = addrEcmd then s.ecmd
  else 0#64

/-- `execute(w)` (30_encoding.md R89): decode, then run the command; an illegal word raises
IllegalCommand. -/
def execute (w : U64) (s : State) : Host.Outcome State Fault Refusal :=
  match decode w with
  | .ok i => exec i s
  | .error _ => .next (s.raise .illegalCommand w)

/-- A write to `CMD` (R57): discarded while an error is pending, else executed. -/
def cmdWrite (w : U64) (s : State) : Host.Outcome State Fault Refusal :=
  if s.err.isSome then .next s else execute w s

/-- `MemWrite(a, 1, v)` (R53): a K limb, a command, the clearing of the latch; a write to any other
address is ignored. -/
def hostWrite (a : BitVec 5) (v : U64) (s : State) : Host.Outcome State Fault Refusal :=
  if a.toNat < 0x10 then .next (s.setKLimb (kIndexOf a) (limbIndexOf a) v)
  else if a = addrCmd then cmdWrite v s
  else if a = addrErrclr then .next s.clearError
  else .next s

/-- One host event, whole (R61, R62). A reset during a command keeps none of its writes (R222). -/
def serve (ev : HostEvent) (s : State) : Host.Outcome State Fault Refusal :=
  match ev with
  | .read a => .next { s with rsp := some (hostRead s a) }
  | .write a v => hostWrite a v s
  | .reset => .next s.afterReset
  | .resetDuringCommand _ => .next s.afterReset

/-- Take the oldest host event and serve it; with none, the CORE waits (10_state.md R31). The read
response of the step before is gone: one pulse per accepted read (R65). -/
def takeEvent (s : State) : Host.Outcome State Fault Refusal :=
  match s.pending with
  | [] => .next { s with rsp := none }
  | ev :: rest => serve ev { s with pending := rest, rsp := none }

/-- s with the command of table bits `w` as the next host event, the write of its word to `CMD`, and
no error pending, since the latch would discard it (R57; notes/assumptions/8.md). -/
def placeCommand (s : State) (nbits w : Nat) : State :=
  { s.clearError with
    pending := .write addrCmd (BitVec.ofNat 64 (w % 2 ^ nbits)) :: s.pending }

end Sys2Proof.Machine
end

