-- ==== Sys2Proof/Machine/Step.lean ====
section
/-! DEFINITION. One step of the machine: one host event, or waiting for one. -/

namespace Sys2Proof.Machine

/-- One step. -/
def step (s : State) : Host.Outcome State Fault Refusal := takeEvent s

/-- The host's probe: s with an instruction placed where the next step takes its command from. -/
def State.withFetchWord (s : State) (nbits w : Nat) : State := placeCommand s nbits w

end Sys2Proof.Machine
end

