-- ==== Sys2Proof/Machine/Pseudo.lean ====
section
/-! DEFINITION. The assembler's conveniences (30_encoding.md R92, R93): the text of a command, the
host transaction a command line stands for, and the expansion of each pseudo-instruction. None has an
opcode. -/

namespace Sys2Proof.Machine

/-- A command line stands for the write of its word to `CMD` (R92). -/
def commandLine (i : Instr) : HostEvent := .write addrCmd (commandWord i)

/-- `KLI Ki, v`: the four limb writes that load a raw register (R93). -/
def kli (i : KIdx) (v : U256) : List HostEvent :=
  [ .write (addrK i 0) (limb v 0), .write (addrK i 1) (limb v 1),
    .write (addrK i 2) (limb v 2), .write (addrK i 3) (limb v 3) ]

/-- `FZERO Fd` (R93). -/
def fzero (fd : FIdx) : Instr := .fseti fd 0#16

/-- `FONE Fd` (R93). -/
def fone (fd : FIdx) : Instr := .fseti fd 1#16

/-- `FMOV Fd, Fs` (R93). -/
def fmov (fd fs : FIdx) : Instr := .fscli fd fs 1#16

/-- `FINV Fd, Fs`, for Fd different from Fs (R93). -/
def finv (fd fs : FIdx) : List Instr := [.fseti fd 1#16, .fdiv fd fd fs]

/-- `PDBL Qd, Qs` (R93). -/
def pdbl (qd qs : QIdx) : Instr := .padd qd qs qs

/-- `CLRERR` (R93). -/
def clrerr : HostEvent := .write addrErrclr 0#64

/-- A register name: its file's letter and its index (R92). -/
def regName (file : String) (i : Nat) : String := file ++ toString i

/-- The operands of a command line after its mnemonic, comma-separated (R92). -/
def commaJoin (mnemonic : String) (operands : List String) : String :=
  mnemonic ++ " " ++ ", ".intercalate operands

/-- The text of a command: mnemonic, then rd, rs1, rs2 or rd, rs1, imm, leaving out the fields it does
not use (R92). -/
def asmText (i : Instr) : String :=
  let kR := regName "K"
  let fR := regName "F"
  let qR := regName "Q"
  match i with
  | .modld ks => commaJoin "MODLD" [kR ks]
  | .fld fd ks => commaJoin "FLD" [fR fd, kR ks]
  | .fst kd fs => commaJoin "FST" [kR kd, fR fs]
  | .fseti fd imm => commaJoin "FSETI" [fR fd, toString imm.toInt]
  | .pld qd ksx ksy => commaJoin "PLD" [qR qd, kR ksx, kR ksy]
  | .pstx kd qs => commaJoin "PSTX" [kR kd, qR qs]
  | .psty kd qs => commaJoin "PSTY" [kR kd, qR qs]
  | .fadd fd fs1 fs2 => commaJoin "FADD" [fR fd, fR fs1, fR fs2]
  | .fsub fd fs1 fs2 => commaJoin "FSUB" [fR fd, fR fs1, fR fs2]
  | .fneg fd fs1 => commaJoin "FNEG" [fR fd, fR fs1]
  | .fmul fd fs1 fs2 => commaJoin "FMUL" [fR fd, fR fs1, fR fs2]
  | .fscl fd fs1 ks2 => commaJoin "FSCL" [fR fd, fR fs1, kR ks2]
  | .fscli fd fs1 imm => commaJoin "FSCLI" [fR fd, fR fs1, toString imm.toInt]
  | .fdiv fd fs1 fs2 => commaJoin "FDIV" [fR fd, fR fs1, fR fs2]
  | .fexp fd fs1 ks2 => commaJoin "FEXP" [fR fd, fR fs1, kR ks2]
  | .feq fs1 fs2 => commaJoin "FEQ" [fR fs1, fR fs2]
  | .pidn qd => commaJoin "PIDN" [qR qd]
  | .pgen qd => commaJoin "PGEN" [qR qd]
  | .padd qd qs1 qs2 => commaJoin "PADD" [qR qd, qR qs1, qR qs2]
  | .pneg qd qs1 => commaJoin "PNEG" [qR qd, qR qs1]
  | .psub qd qs1 qs2 => commaJoin "PSUB" [qR qd, qR qs1, qR qs2]
  | .peq qs1 qs2 => commaJoin "PEQ" [qR qs1, qR qs2]

end Sys2Proof.Machine
end

