-- ==== Sys2Proof/Safety.lean ====
section
/-! DEFINITION. What counts as a good state and a well-kept machine, and the vocabulary claims use:
which registers a command reads and writes, which errors it can raise, and the mathematical
quotient. -/

namespace Sys2Proof.Machine

/-! ### Good states and invariants -/

/-- "the state with `ERR != 0` is not a good final state" (60_exceptions.md R207). -/
abbrev State.Good (s : State) : Prop := s.err = none

/-- `MOD` is in 1 to 2^256 - 1 (10_state.md R24). -/
abbrev State.ModulusLegal (s : State) : Prop := 1 ≤ s.modulus.toNat

/-- Every valid F register holds a residue below `MOD` (10_state.md R25). -/
abbrev State.FCanonical (s : State) : Prop :=
  ∀ i : FIdx, ∀ a ∈ s.f[i], a.toNat < s.modulus.toNat

/-- Both coordinates are below `P25519`. -/
abbrev Point.Canonical (p : Point) : Prop :=
  p.x.toNat < p25519.toNat ∧ p.y.toNat < p25519.toNat

/-- Every valid Q register holds a pair of residues below `P25519` (10_state.md R28). -/
abbrev State.QCanonical (s : State) : Prop := ∀ i : QIdx, ∀ p ∈ s.q[i], p.Canonical

/-- The generator's coordinates are below `P25519` (43_point.md R173). -/
abbrev State.GeneratorCanonical (s : State) : Prop :=
  s.cfg.genX.toNat < p25519.toNat ∧ s.cfg.genY.toNat < p25519.toNat

/-- The invariant of the register files (R24, R25, R28, R173). -/
abbrev State.Canonical (s : State) : Prop :=
  s.ModulusLegal ∧ s.FCanonical ∧ s.QCanonical ∧ s.GeneratorCanonical

/-! ### The errors a command can raise -/

end Sys2Proof.Machine

namespace Sys2Proof

/-- The table of 60_exceptions.md R196; IllegalCommand "belongs to the decode step" and no decoded
command raises it. -/
def Instr.mayRaise (i : Instr) (e : Machine.CmdError) : Bool :=
  match i with
  | .modld _ => e == .invalidModulus
  | .fld _ _ => false
  | .fst _ _ => e == .invalidRegister
  | .fseti _ _ => e == .representationOverflow
  | .pld _ _ _ => false
  | .pstx _ _ => e == .invalidRegister
  | .psty _ _ => e == .invalidRegister
  | .fadd _ _ _ => e == .invalidRegister
  | .fsub _ _ _ => e == .invalidRegister
  | .fneg _ _ => e == .invalidRegister
  | .fmul _ _ _ => e == .invalidRegister
  | .fscl _ _ _ => e == .invalidRegister
  | .fscli _ _ _ => e == .invalidRegister || e == .representationOverflow
  | .fdiv _ _ _ => e == .invalidRegister || e == .invalidModulus || e == .divisionByZero
  | .fexp _ _ _ => e == .invalidRegister
  | .feq _ _ => e == .invalidRegister
  | .pidn _ => false
  | .pgen _ => false
  | .padd _ _ _ => e == .invalidRegister || e == .divisionByZero
  | .pneg _ _ => e == .invalidRegister
  | .psub _ _ _ => e == .invalidRegister || e == .divisionByZero
  | .peq _ _ => e == .invalidRegister

/-! ### The registers a command reads and writes (the classes of 30_encoding.md R84) -/

/-- The F registers a command names as sources. -/
def Instr.fSources (i : Instr) : List FIdx :=
  match i with
  | .fst _ fs => [fs]
  | .fadd _ a b => [a, b]
  | .fsub _ a b => [a, b]
  | .fneg _ a => [a]
  | .fmul _ a b => [a, b]
  | .fscl _ a _ => [a]
  | .fscli _ a _ => [a]
  | .fdiv _ a b => [a, b]
  | .fexp _ a _ => [a]
  | .feq a b => [a, b]
  | .modld _ | .fld _ _ | .fseti _ _ | .pld _ _ _ | .pstx _ _ | .psty _ _ | .pidn _
  | .pgen _ | .padd _ _ _ | .pneg _ _ | .psub _ _ _ | .peq _ _ => []

/-- The Q registers a command names as sources. -/
def Instr.qSources (i : Instr) : List QIdx :=
  match i with
  | .pstx _ qs => [qs]
  | .psty _ qs => [qs]
  | .padd _ a b => [a, b]
  | .pneg _ a => [a]
  | .psub _ a b => [a, b]
  | .peq a b => [a, b]
  | .modld _ | .fld _ _ | .fst _ _ | .fseti _ _ | .pld _ _ _ | .fadd _ _ _ | .fsub _ _ _
  | .fneg _ _ | .fmul _ _ _ | .fscl _ _ _ | .fscli _ _ _ | .fdiv _ _ _ | .fexp _ _ _
  | .feq _ _ | .pidn _ | .pgen _ => []

/-- The K register a command names as its destination. -/
def Instr.kDest (i : Instr) : Option KIdx :=
  match i with
  | .fst kd _ => some kd
  | .pstx kd _ => some kd
  | .psty kd _ => some kd
  | .modld _ | .fld _ _ | .fseti _ _ | .pld _ _ _ | .fadd _ _ _ | .fsub _ _ _ | .fneg _ _
  | .fmul _ _ _ | .fscl _ _ _ | .fscli _ _ _ | .fdiv _ _ _ | .fexp _ _ _ | .feq _ _
  | .pidn _ | .pgen _ | .padd _ _ _ | .pneg _ _ | .psub _ _ _ | .peq _ _ => none

/-- The F register a command names as its destination. -/
def Instr.fDest (i : Instr) : Option FIdx :=
  match i with
  | .fld fd _ => some fd
  | .fseti fd _ => some fd
  | .fadd fd _ _ => some fd
  | .fsub fd _ _ => some fd
  | .fneg fd _ => some fd
  | .fmul fd _ _ => some fd
  | .fscl fd _ _ => some fd
  | .fscli fd _ _ => some fd
  | .fdiv fd _ _ => some fd
  | .fexp fd _ _ => some fd
  | .modld _ | .fst _ _ | .pld _ _ _ | .pstx _ _ | .psty _ _ | .feq _ _ | .pidn _ | .pgen _
  | .padd _ _ _ | .pneg _ _ | .psub _ _ _ | .peq _ _ => none

/-- The Q register a command names as its destination. -/
def Instr.qDest (i : Instr) : Option QIdx :=
  match i with
  | .pld qd _ _ => some qd
  | .pidn qd => some qd
  | .pgen qd => some qd
  | .padd qd _ _ => some qd
  | .pneg qd _ => some qd
  | .psub qd _ _ => some qd
  | .modld _ | .fld _ _ | .fst _ _ | .fseti _ _ | .pstx _ _ | .psty _ _ | .fadd _ _ _
  | .fsub _ _ _ | .fneg _ _ | .fmul _ _ _ | .fscl _ _ _ | .fscli _ _ _ | .fdiv _ _ _
  | .fexp _ _ _ | .feq _ _ | .peq _ _ => none

/-- The command loads the modulus. -/
def Instr.isModld (i : Instr) : Bool :=
  match i with
  | .modld _ => true
  | .fld _ _ | .fst _ _ | .fseti _ _ | .pld _ _ _ | .pstx _ _ | .psty _ _ | .fadd _ _ _
  | .fsub _ _ _ | .fneg _ _ | .fmul _ _ _ | .fscl _ _ _ | .fscli _ _ _ | .fdiv _ _ _
  | .fexp _ _ _ | .feq _ _ | .pidn _ | .pgen _ | .padd _ _ _ | .pneg _ _ | .psub _ _ _
  | .peq _ _ => false

/-- The command writes `EQ` (10_state.md R30). -/
def Instr.writesEq (i : Instr) : Bool :=
  match i with
  | .feq _ _ => true
  | .peq _ _ => true
  | .modld _ | .fld _ _ | .fst _ _ | .fseti _ _ | .pld _ _ _ | .pstx _ _ | .psty _ _
  | .fadd _ _ _ | .fsub _ _ _ | .fneg _ _ | .fmul _ _ _ | .fscl _ _ _ | .fscli _ _ _
  | .fdiv _ _ _ | .fexp _ _ _ | .pidn _ | .pgen _ | .padd _ _ _ | .pneg _ _ | .psub _ _ _ => false

/-- The command belongs to the point layer, opcodes 0x30 to 0x35 (30_encoding.md R83). -/
def Instr.isPoint (i : Instr) : Bool :=
  match i with
  | .pidn _ => true
  | .pgen _ => true
  | .padd _ _ _ => true
  | .pneg _ _ => true
  | .psub _ _ _ => true
  | .peq _ _ => true
  | .modld _ | .fld _ _ | .fst _ _ | .fseti _ _ | .pld _ _ _ | .pstx _ _ | .psty _ _
  | .fadd _ _ _ | .fsub _ _ _ | .fneg _ _ | .fmul _ _ _ | .fscl _ _ _ | .fscli _ _ _
  | .fdiv _ _ _ | .fexp _ _ _ | .feq _ _ => false

end Sys2Proof

namespace Sys2Proof.Machine

/-- What `ERR` and `ECMD` hold together: 0 and 0, or an error that the recorded word can have raised
(20_memory.md R59, 60_exceptions.md R194, R196). -/
def State.errorExplained (s : State) : Bool :=
  match s.err with
  | none => s.ecmd == 0#64
  | some e =>
    match decode s.ecmd with
    | .ok i => i.mayRaise e
    | .error _ => e == .illegalCommand

/-! ### Mathematics the statements use, over integers of unbounded size (00_scope.md R10) -/

/-- `n · d^(P−2) mod P`: the field quotient of 42_field.md R145. -/
def fermatQuotient (n d p : Nat) : Nat := n * d ^ (p - 2) % p

/-- `t = d·x1·x2·y1·y2` modulo P (43_point.md R174). -/
def crossTermNat (d : U256) (p1 p2 : Point) : Nat :=
  d.toNat * p1.x.toNat * p2.x.toNat * p1.y.toNat * p2.y.toNat % p25519.toNat

/-- `−x²+y² ≡ 1 + d·x²·y² (mod P)`, the two sides moved so that every term is a natural number
(43_point.md R170). -/
def OnCurve (d : U256) (p : Point) : Prop :=
  p.y.toNat ^ 2 % p25519.toNat =
    (1 + d.toNat * p.x.toNat ^ 2 * p.y.toNat ^ 2 + p.x.toNat ^ 2) % p25519.toNat

end Sys2Proof.Machine
end

