-- ==== Sys2Proof/Certificates/Slice0/Obligations.lean ====
section
/-! DEFINITION. The statements about the CORE, from the numbered rules of spec/. A next state is written
out whole (`{ s with ... }`), so each result statement is also its command's frame. No statement
rests on the value of a curve constant, but for `ResetMeetsInvariants`: `s.cfg` is any. The fields
`pending` and `rsp` that a step statement writes are the model's own (notes/assumptions/1.md, 2.md). -/

open Sys2Proof Sys2Proof.Machine

/-! ### Encoding and decoding (30_encoding.md) -/

/-- Decoding the word of a command gives the command back, with every operand at every value its field
admits (R81, R84). -/
def Obligations.EncodeThenDecode : Prop := ∀ i : Instr, decode (commandWord i) = .ok i

/-- A legal word is the word of the command it decodes to: no bit is dropped (R82, R86, R88). -/
def Obligations.DecodeThenEncode : Prop :=
  ∀ (w : U64) (i : Instr), decode w = .ok i → w = commandWord i

/-- "for every 64-bit value written to `CMD`, either exactly one row of rule R84 matches or the word is
illegal" (R87, which the spec marks as derived from R84 and R86). -/
def Obligations.OneRowMatchesOrIllegal : Prop :=
  ∀ w : U64,
    ((∃ i, decode w = .ok i) ∧ w.extractLsb' 32 32 = 0#32 ∧
        ∃! n : Fin opcodeTable.length, opcodeTable[n].selects (w.setWidth 32) = true) ∨
      ((∃ r, decode w = .error r) ∧
        (w.extractLsb' 32 32 ≠ 0#32 ∨
          ∀ n : Fin opcodeTable.length, opcodeTable[n].selects (w.setWidth 32) = false))

/-- The masks of R84 accept exactly the words that pass the checks of R86, which read the operand
classes: opcode assigned, fields in class, unused fields 0, bits 11:0 of an R-format word 0, bits
63:32 zero. -/
def Obligations.LegalWordsAreTheClassChecked : Prop :=
  ∀ w : U64, (∃ i, decode w = .ok i) ↔ wellFormed w = true

/-- Words written out from R84 and R92 decode to the command they stand for (one a family and format),
and words of 95_test_vectors.md V-E2, V-E3, V-E4, V-E5, V-E6 decode to none. The names of the reasons
for refusal are the model's own choice (notes/assumptions/13.md). -/
def Obligations.PublishedWordsDecode : Prop :=
  decode 0x0000000020312000#64 = .ok (.fadd 3 1 2) ∧
  decode 0x0000000028012000#64 = .ok (.feq 1 2) ∧
  decode 0x000000001300000e#64 = .ok (.fseti 0 14#16) ∧
  decode 0x000000002521ffff#64 = .ok (.fscli 2 1 0xffff#16) ∧
  decode 0x0000000010000000#64 = .ok (.modld 0) ∧
  decode 0x0000000014101000#64 = .ok (.pld 1 0 1) ∧
  decode 0x0000000030200000#64 = .ok (.pidn 2) ∧
  decode 0x0000000032210000#64 = .ok (.padd 2 1 0) ∧
  decode 0x0000000000000000#64 = .error .unassignedOpcode ∧
  decode 0x0000000020812000#64 = .error .fieldOutOfClass ∧
  decode 0x0000000020312001#64 = .error .lowBitsNonzero ∧
  decode 0x0000000028112000#64 = .error .fieldOutOfClass ∧
  decode 0x0100000020312000#64 = .error .upperHalfNonzero

/-! ### The host port and the steps (20_memory.md, 60_exceptions.md, 70_reset_and_hazards.md) -/

/-- A write of a legal word to `CMD` with no error pending runs exactly the decoded command, on the
state whose oldest host event is taken and whose read response is gone (R57, R89). -/
def Obligations.StepRunsDecodedCommand : Prop :=
  ∀ (s : State) (w : U64) (i : Instr) (rest : List HostEvent),
    s.pending = .write addrCmd w :: rest → s.err = none → decode w = .ok i →
      step s = exec i { s with pending := rest, rsp := none }

/-- "An illegal word raises IllegalCommand (60_exceptions.md rule R194) and changes nothing else", legal
or not being the class checks of R86 and R88. -/
def Obligations.IllegalWordRaises : Prop :=
  ∀ (s : State) (w : U64) (rest : List HostEvent),
    s.pending = .write addrCmd w :: rest → s.err = none → wellFormed w = false →
      step s = .next
        { s with err := some .illegalCommand, ecmd := w, pending := rest, rsp := none }

/-- In the latch a `CMD` write is discarded, and every other access works as usual: a K limb write, a
read, a write to `ERRCLR`, and a write to a read-only or reserved address, which is ignored as always
(R200). -/
def Obligations.LatchDiscardsOnlyCommands : Prop :=
  ∀ (s : State) (rest : List HostEvent), s.err ≠ none →
    (∀ w, s.pending = .write addrCmd w :: rest →
      step s = .next { s with pending := rest, rsp := none }) ∧
    (∀ i j v, s.pending = .write (addrK i j) v :: rest →
      step s = .next
        { s with k := s.k.set i (setLimb s.k[i] j v), pending := rest, rsp := none }) ∧
    (∀ a, s.pending = .read a :: rest →
      step s = .next { s with pending := rest, rsp := some (hostRead s a) }) ∧
    (∀ v, s.pending = .write addrErrclr v :: rest →
      step s = .next { s with err := none, ecmd := 0#64, pending := rest, rsp := none }) ∧
    (∀ a v, ((∃ j, a = addrMod j) ∨ a = addrStatus ∨ a = addrEcmd ∨ 0x18 ≤ a.toNat) →
      s.pending = .write a v :: rest → step s = .next { s with pending := rest, rsp := none })

/-- A write of any value to `ERRCLR` clears `ERR` and `ECMD` and changes nothing else; a read of it
returns 0 (R60). -/
def Obligations.ErrclrClearsTheLatch : Prop :=
  ∀ (s : State) (v : U64) (rest : List HostEvent),
    (s.pending = .write addrErrclr v :: rest →
      step s = .next { s with err := none, ecmd := 0#64, pending := rest, rsp := none }) ∧
    hostRead s addrErrclr = 0#64

/-- A read of one limb of `K[i]` gives that limb; a host write to it gives the value of the equation of
R22: that limb is the written word, the other three limbs and everything else keep their value, whether
or not an error is latched (R55). -/
def Obligations.KLimbWriteReplacesOneLimb : Prop :=
  ∀ (s : State) (i : KIdx) (j : Fin 4) (v : U64) (rest : List HostEvent),
    hostRead s (addrK i j) = limb s.k[i] j ∧
    (s.pending = .write (addrK i j) v :: rest →
      ∃ n : U256,
        (n.toNat : Int) = s.k[i].toNat - (limb s.k[i] j).toNat * 2 ^ (64 * j.val) +
          v.toNat * 2 ^ (64 * j.val) ∧
        limb n j = v ∧ (∀ j', j' ≠ j → limb n j' = limb s.k[i] j') ∧
        step s = .next { s with k := s.k.set i n, pending := rest, rsp := none })

/-- The value of `K[i]` is its four reads, limb 0 least significant; so is `MOD` (R54, R56). -/
def Obligations.LimbReadsGiveTheValue : Prop :=
  ∀ (s : State) (i : KIdx),
    s.k[i].toNat = (hostRead s (addrK i 0)).toNat + 2 ^ 64 * (hostRead s (addrK i 1)).toNat +
      2 ^ 128 * (hostRead s (addrK i 2)).toNat + 2 ^ 192 * (hostRead s (addrK i 3)).toNat ∧
    s.modulus.toNat = (hostRead s (addrMod 0)).toNat + 2 ^ 64 * (hostRead s (addrMod 1)).toNat +
      2 ^ 128 * (hostRead s (addrMod 2)).toNat + 2 ^ 192 * (hostRead s (addrMod 3)).toNat

/-- The side effects of the port (R53): a read changes nothing but the response; a K limb write changes
that limb only; a `CMD` write is handed to the command rule of R57, an `ERRCLR` write clears the latch;
a write to a read-only or reserved address is ignored; a write-only or reserved address reads as 0;
`MOD`, F, Q, `EQ` change, and an error becomes pending, by a `CMD` write only (or by reset). -/
def Obligations.PortSideEffects : Prop :=
  ∀ (s : State) (rest : List HostEvent),
    (∀ a, s.pending = .read a :: rest →
      step s = .next { s with pending := rest, rsp := some (hostRead s a) }) ∧
    (∀ i j v, s.pending = .write (addrK i j) v :: rest →
      ∃ k, step s = .next { s with k := k, pending := rest, rsp := none } ∧
        limb k[i] j = v ∧ (∀ j', j' ≠ j → limb k[i] j' = limb s.k[i] j') ∧
        ∀ i', i' ≠ i → k[i'] = s.k[i']) ∧
    (∀ w, s.pending = .write addrCmd w :: rest →
      step s = cmdWrite w { s with pending := rest, rsp := none }) ∧
    (∀ v, s.pending = .write addrErrclr v :: rest →
      step s = .next { s with err := none, ecmd := 0#64, pending := rest, rsp := none }) ∧
    (∀ a v, ((∃ j, a = addrMod j) ∨ a = addrStatus ∨ a = addrEcmd ∨ 0x18 ≤ a.toNat) →
      s.pending = .write a v :: rest → step s = .next { s with pending := rest, rsp := none }) ∧
    (∀ a, a = addrCmd ∨ a = addrErrclr ∨ 0x18 ≤ a.toNat → hostRead s a = 0#64) ∧
    (∀ ev t, s.pending = ev :: rest → (∀ w, ev ≠ .write addrCmd w) → ev ≠ .reset →
      (∀ w, ev ≠ .resetDuringCommand w) → step s = .next t →
        t.modulus = s.modulus ∧ t.f = s.f ∧ t.q = s.q ∧ t.eqFlag = s.eqFlag ∧
          (t.err = s.err ∨ t.err = none) ∧ (t.ecmd = s.ecmd ∨ t.ecmd = 0#64))

/-- The fields of `STATUS` (R58), with the error codes of R190, read at address 0x15, and `ECMD` read at
0x16 (R59), in every state. -/
def Obligations.StatusFields : Prop :=
  ∀ s : State,
    hostRead s addrStatus = s.statusWord ∧ hostRead s addrEcmd = s.ecmd ∧
    s.statusWord.getLsbD 0 = s.eqFlag ∧
    s.statusWord.extractLsb' 1 3 = 0#3 ∧
    (s.statusWord.extractLsb' 4 4).toNat =
      (match s.err with
        | none => 0
        | some .invalidModulus => 1
        | some .divisionByZero => 2
        | some .representationOverflow => 3
        | some .illegalCommand => 4
        | some .invalidRegister => 5) ∧
    (∀ i : FIdx, s.statusWord.getLsbD (8 + i.val) = s.f[i].isSome) ∧
    (∀ i : QIdx, s.statusWord.getLsbD (16 + i.val) = s.q[i].isSome) ∧
    s.statusWord.extractLsb' 20 44 = 0#44

/-- With no host event the CORE waits: nothing advances (R31). The step that waits is the model's choice
(notes/assumptions/1.md). -/
def Obligations.NoEventWaits : Prop :=
  ∀ s : State, s.pending = [] → step s = .next { s with rsp := none }

/-- Reset gives every piece of state of R20 its reset value and `STATUS` reads 0, keeping the wired
constants and the host events still to come, and so does reset during a command, whatever the command
(R220, R222). That reset keeps the host's later events and the wired constants is the model's choice
(notes/assumptions/4.md). -/
def Obligations.ResetFromAnyState : Prop :=
  ∀ (s : State) (rest : List HostEvent),
    (s.pending = .reset :: rest ∨ ∃ w, s.pending = .resetDuringCommand w :: rest) →
      ∃ t, step s = .next t ∧ t.k = Vector.replicate 4 0#256 ∧
        t.modulus.toNat = 2 ^ 255 - 19 ∧ t.f = Vector.replicate 8 none ∧
        t.q = Vector.replicate 4 none ∧ t.eqFlag = false ∧ t.err = none ∧ t.ecmd = 0#64 ∧
        hostRead t addrStatus = 0#64 ∧ t.cfg = s.cfg ∧ t.pending = rest ∧ t.rsp = none

/-- The values after reset, and `STATUS` reads 0 (R35). -/
def Obligations.ResetValues : Prop :=
  (∀ i : KIdx, State.reset.k[i] = 0#256) ∧ State.reset.modulus.toNat = 2 ^ 255 - 19 ∧
    (∀ i : FIdx, State.reset.f[i] = none) ∧ (∀ i : QIdx, State.reset.q[i] = none) ∧
    State.reset.eqFlag = false ∧ State.reset.err = none ∧ State.reset.ecmd = 0#64 ∧
    hostRead State.reset addrStatus = 0#64

/-- "No host transaction is ever stuck": every step answers a next state, in every state, and no step
changes a wired constant (R207, R226, R34). -/
def Obligations.EveryStepCompletes : Prop :=
  ∀ s : State, ∃ t, step s = .next t ∧ t.cfg = s.cfg

/-! ### Invariants and whole-machine rules -/

/-- Every step keeps `MOD` legal and every valid F and Q register canonical (R24, R25, R28). -/
def Obligations.StepKeepsCanonical : Prop :=
  ∀ s t : State, s.Canonical → step s = .next t → t.Canonical

/-- Every step keeps `ERR` and `ECMD` consistent: 0 together, or an error with a word whose execution
can have raised it (R59, R194, R196). -/
def Obligations.StepKeepsErrorExplained : Prop :=
  ∀ s t : State, s.errorExplained = true → step s = .next t → t.errorExplained = true

/-- The state after reset meets both invariants. That the generator is canonical rests on the default
constants, which are PRESUMED (notes/assumptions/3.md). -/
def Obligations.ResetMeetsInvariants : Prop :=
  State.reset.Canonical ∧ State.reset.errorExplained = true

/-- After an error the state is the state before the `CMD` write except for `ERR` and `ECMD`, which hold
the code and all 64 bits of the written word (R197, R198). -/
def Obligations.ErrorsArePrecise : Prop :=
  ∀ (s t : State) (w : U64) (e : CmdError) (rest : List HostEvent),
    s.pending = .write addrCmd w :: rest → s.err = none → step s = .next t → t.err = some e →
      t = { s with err := some e, ecmd := w, pending := rest, rsp := none }

/-- `ERR` changes only from 0 to a code, by a `CMD` write, and from a code to 0, by an `ERRCLR` write or
reset (R202, which the spec marks as derived from R197, R200 and R201). -/
def Obligations.ErrorsDoNotNest : Prop :=
  ∀ s t : State, step s = .next t → t.err ≠ s.err →
    (s.err = none ∧ ∃ w rest, s.pending = .write addrCmd w :: rest) ∨
      (t.err = none ∧ t.ecmd = 0#64 ∧ ∃ rest,
        (∃ v, s.pending = .write addrErrclr v :: rest) ∨ s.pending = .reset :: rest ∨
          ∃ w, s.pending = .resetDuringCommand w :: rest)

/-- The table of which command can raise what (R196, which the spec marks as derived from the command
rules): a command, meaning an opcode with any operands, raises an error in some state with none
pending exactly when the table says yes. -/
def Obligations.RaiseTable : Prop :=
  ∀ (i : Instr) (e : CmdError),
    i.mayRaise e = true ↔
      ∃ (i' : Instr) (s t : State), opcodeField (encode i') = opcodeField (encode i) ∧
        s.err = none ∧ exec i' s = .next t ∧ t.err = some e

/-- What a command leaves unchanged, every command, whether it completes or raises: every K, F, Q
register but its destination, `MOD` unless it is MODLD, `EQ` unless it is an equality, and always the
wired constants, the host's queue and the read response (R30, R34, R90, R127, R156, R180). -/
def Obligations.CommandFrame : Prop :=
  ∀ (i : Instr) (s t : State), exec i s = .next t →
    (∀ r, i.kDest ≠ some r → t.k[r] = s.k[r]) ∧
    (i.isModld = false → t.modulus = s.modulus ∧ ∀ r, i.fDest ≠ some r → t.f[r] = s.f[r]) ∧
    (∀ r, i.qDest ≠ some r → t.q[r] = s.q[r]) ∧
    (i.writesEq = false → t.eqFlag = s.eqFlag) ∧
    t.cfg = s.cfg ∧ t.pending = s.pending ∧ t.rsp = s.rsp

/-- A host "never sees `MOD` changed with F registers still valid" (R62): a step that changes `MOD`
serves MODLD with no error pending, or reset, and leaves every F register invalid (R23, R24, R25). -/
def Obligations.ModulusChangeInvalidatesF : Prop :=
  ∀ s t : State, step s = .next t → t.modulus ≠ s.modulus →
    (∀ r : FIdx, t.f[r] = none) ∧ ∃ rest,
      (s.err = none ∧ ∃ ks, s.pending = .write addrCmd (commandWord (.modld ks)) :: rest) ∨
        s.pending = .reset :: rest ∨ ∃ w, s.pending = .resetDuringCommand w :: rest

/-- "the register `MOD` plays no part in any point command" (43_point.md; R28): two runs that differ in
`MOD` and in the F file differ in nothing else afterwards. -/
def Obligations.PointCommandsIgnoreModulusAndF : Prop :=
  ∀ (i : Instr) (s t : State) (m : U256) (f : Vector (Option U256) 8), i.isPoint = true →
    exec i s = .next t →
      exec i { s with modulus := m, f := f } = .next { t with modulus := m, f := f }

/-- A command that names an invalid F or Q register as a source raises InvalidRegister and changes
nothing else, before any other error of its own (R27, R195, R199). -/
def Obligations.InvalidSourceRaises : Prop :=
  ∀ (i : Instr) (s : State),
    ((∃ r ∈ i.fSources, s.f[r] = none) ∨ ∃ r ∈ i.qSources, s.q[r] = none) →
      exec i s = .next { s with err := some .invalidRegister, ecmd := commandWord i }

/-! ### The datapath primitive and the reference algorithms (40_u256_primitive.md, 42_field.md) -/

/-- The exact integer meaning of each operation of the contract (R101 to R109). That the count of
leading zeros of 0 is 256 the spec marks as derived from the definition (R108). -/
def Obligations.PrimitiveArithmetic : Prop :=
  ∀ a b : U256,
    (u256Add a b).toNat = (a.toNat + b.toNat) % 2 ^ 256 ∧
    ((u256Sub a b).toNat : Int) = ((a.toNat : Int) - b.toNat) % 2 ^ 256 ∧
    (∀ n : Fin 256, (u256Shl a n).toNat = a.toNat * 2 ^ n.val % 2 ^ 256 ∧
      (u256Shr a n).toNat = a.toNat / 2 ^ n.val ∧
      (u256Bit a n).toNat = a.toNat / 2 ^ n.val % 2 ∧
      u256Bit (u256And a b) n = (u256Bit a n && u256Bit b n)) ∧
    (u256Lt a b = true ↔ a.toNat < b.toNat) ∧
    u256Clz 0#256 = 256 ∧
    (∀ i : Fin 256, u256Bit a i = true → (∀ j : Fin 256, i < j → u256Bit a j = false) →
      u256Clz a = 255 - i.val) ∧
    (u256Mulw a b).toNat = a.toNat * b.toNat

/-- The source's bit-serial multiply computes `(n * m) mod P` (R147, which derives it). -/
def Obligations.SerialMultiplyIsProduct : Prop :=
  ∀ n m p : U256, n.toNat < p.toNat → (mulmodSerial n m p).toNat = n.toNat * m.toNat % p.toNat

/-- The source's square-and-multiply computes `(a ^ e) mod P` for every legal modulus (R148,
which derives it). -/
def Obligations.SquareAndMultiplyIsPower : Prop :=
  ∀ a e p : U256, 1 ≤ p.toNat → (powmod a e p).toNat = a.toNat ^ e.toNat % p.toNat

/-! ### Construction and move commands (41_move.md) -/

/-- MODLD: a nonzero raw value becomes `MOD` and every F register becomes invalid, even when the value
is the one `MOD` holds; 0 raises InvalidModulus (R120). -/
def Obligations.ModldLoadsOrRaises : Prop :=
  ∀ (ks : KIdx) (s : State),
    (s.k[ks] ≠ 0#256 →
      exec (.modld ks) s =
        .next { s with modulus := s.k[ks], f := Vector.replicate 8 none }) ∧
    (s.k[ks] = 0#256 →
      exec (.modld ks) s =
        .next { s with err := some .invalidModulus, ecmd := commandWord (.modld ks) })

/-- FLD: the raw value modulo `MOD`, and the register valid (R121). -/
def Obligations.FldReduces : Prop :=
  ∀ (fd : FIdx) (ks : KIdx) (s : State), s.ModulusLegal →
    ∃ v : U256, v.toNat = s.k[ks].toNat % s.modulus.toNat ∧
      exec (.fld fd ks) s = .next { s with f := s.f.set fd (some v) }

/-- FST: the residue goes to the raw register whole (R122). -/
def Obligations.FstCopies : Prop :=
  ∀ (kd : KIdx) (fs : FIdx) (s : State),
    (∀ a, s.f[fs] = some a → exec (.fst kd fs) s = .next { s with k := s.k.set kd a }) ∧
    (s.f[fs] = none →
      exec (.fst kd fs) s =
        .next { s with err := some .invalidRegister, ecmd := commandWord (.fst kd fs) })

/-- FSETI: a literal that is not negative modulo `MOD`; bit 15 set raises RepresentationOverflow
(R123). -/
def Obligations.FsetiConvertsOrRaises : Prop :=
  ∀ (fd : FIdx) (imm : BitVec 16) (s : State),
    (imm.getLsbD 15 = false → s.ModulusLegal →
      ∃ v : U256, v.toNat = imm.toNat % s.modulus.toNat ∧
        exec (.fseti fd imm) s = .next { s with f := s.f.set fd (some v) }) ∧
    (imm.getLsbD 15 = true →
      exec (.fseti fd imm) s =
        .next { s with err := some .representationOverflow, ecmd := commandWord (.fseti fd imm) })

/-- PLD: both raw values modulo 2^255 - 19, whatever `MOD` holds, on the curve or not (R124). -/
def Obligations.PldReduces : Prop :=
  ∀ (qd : QIdx) (ksx ksy : KIdx) (s : State),
    ∃ p : Point, p.x.toNat = s.k[ksx].toNat % (2 ^ 255 - 19) ∧
      p.y.toNat = s.k[ksy].toNat % (2 ^ 255 - 19) ∧
      exec (.pld qd ksx ksy) s = .next { s with q := s.q.set qd (some p) }

/-- PSTX and PSTY: one coordinate goes to the raw register (R125, R126). -/
def Obligations.PstxPstyCopy : Prop :=
  ∀ (kd : KIdx) (qs : QIdx) (s : State),
    (∀ p, s.q[qs] = some p →
      exec (.pstx kd qs) s = .next { s with k := s.k.set kd p.x } ∧
      exec (.psty kd qs) s = .next { s with k := s.k.set kd p.y }) ∧
    (s.q[qs] = none →
      exec (.pstx kd qs) s =
        .next { s with err := some .invalidRegister, ecmd := commandWord (.pstx kd qs) } ∧
      exec (.psty kd qs) s =
        .next { s with err := some .invalidRegister, ecmd := commandWord (.psty kd qs) })

/-! ### Field commands (42_field.md) -/

/-- FADD: `(a + b) mod P`, exact also above 2^256 (R149, R141, R111). -/
def Obligations.FaddAdds : Prop :=
  ∀ (fd fs1 fs2 : FIdx) (s : State),
    (∀ a b, s.Canonical → s.f[fs1] = some a → s.f[fs2] = some b →
      ∃ v : U256, v.toNat = (a.toNat + b.toNat) % s.modulus.toNat ∧
        exec (.fadd fd fs1 fs2) s = .next { s with f := s.f.set fd (some v) }) ∧
    (s.f[fs1] = none ∨ s.f[fs2] = none →
      exec (.fadd fd fs1 fs2) s =
        .next { s with err := some .invalidRegister, ecmd := commandWord (.fadd fd fs1 fs2) })

/-- FSUB: `(a + P - b) mod P` over the integers (R150, R142). -/
def Obligations.FsubSubtracts : Prop :=
  ∀ (fd fs1 fs2 : FIdx) (s : State),
    (∀ a b, s.Canonical → s.f[fs1] = some a → s.f[fs2] = some b →
      ∃ v : U256,
        (v.toNat : Int) = ((a.toNat : Int) + s.modulus.toNat - b.toNat) % s.modulus.toNat ∧
        exec (.fsub fd fs1 fs2) s = .next { s with f := s.f.set fd (some v) }) ∧
    (s.f[fs1] = none ∨ s.f[fs2] = none →
      exec (.fsub fd fs1 fs2) s =
        .next { s with err := some .invalidRegister, ecmd := commandWord (.fsub fd fs1 fs2) })

/-- FNEG: `(P - a) mod P` over the integers, so 0 for 0 (R151, R143). -/
def Obligations.FnegNegates : Prop :=
  ∀ (fd fs1 : FIdx) (s : State),
    (∀ a, s.Canonical → s.f[fs1] = some a →
      ∃ v : U256, (v.toNat : Int) = ((s.modulus.toNat : Int) - a.toNat) % s.modulus.toNat ∧
        exec (.fneg fd fs1) s = .next { s with f := s.f.set fd (some v) }) ∧
    (s.f[fs1] = none →
      exec (.fneg fd fs1) s =
        .next { s with err := some .invalidRegister, ecmd := commandWord (.fneg fd fs1) })

/-- FMUL: `(a * b) mod P`, the product exact (R152, R144). -/
def Obligations.FmulMultiplies : Prop :=
  ∀ (fd fs1 fs2 : FIdx) (s : State),
    (∀ a b, s.ModulusLegal → s.f[fs1] = some a → s.f[fs2] = some b →
      ∃ v : U256, v.toNat = a.toNat * b.toNat % s.modulus.toNat ∧
        exec (.fmul fd fs1 fs2) s = .next { s with f := s.f.set fd (some v) }) ∧
    (s.f[fs1] = none ∨ s.f[fs2] = none →
      exec (.fmul fd fs1 fs2) s =
        .next { s with err := some .invalidRegister, ecmd := commandWord (.fmul fd fs1 fs2) })

/-- FSCL: `(a * k) mod P` for any raw k, not reduced first (R153, R144). -/
def Obligations.FsclScales : Prop :=
  ∀ (fd fs1 : FIdx) (ks2 : KIdx) (s : State),
    (∀ a, s.ModulusLegal → s.f[fs1] = some a →
      ∃ v : U256, v.toNat = a.toNat * s.k[ks2].toNat % s.modulus.toNat ∧
        exec (.fscl fd fs1 ks2) s = .next { s with f := s.f.set fd (some v) }) ∧
    (s.f[fs1] = none →
      exec (.fscl fd fs1 ks2) s =
        .next { s with err := some .invalidRegister, ecmd := commandWord (.fscl fd fs1 ks2) })

/-- FSCLI: `(a * imm) mod P`; an invalid source is reported before a negative literal, which raises
RepresentationOverflow (R154). -/
def Obligations.FscliScalesOrRaises : Prop :=
  ∀ (fd fs1 : FIdx) (imm : BitVec 16) (s : State),
    (∀ a, s.f[fs1] = some a →
      (imm.getLsbD 15 = false → s.ModulusLegal →
        ∃ v : U256, v.toNat = a.toNat * imm.toNat % s.modulus.toNat ∧
          exec (.fscli fd fs1 imm) s = .next { s with f := s.f.set fd (some v) }) ∧
      (imm.getLsbD 15 = true →
        exec (.fscli fd fs1 imm) s =
          .next { s with
            err := some .representationOverflow, ecmd := commandWord (.fscli fd fs1 imm) })) ∧
    (s.f[fs1] = none →
      exec (.fscli fd fs1 imm) s =
        .next { s with err := some .invalidRegister, ecmd := commandWord (.fscli fd fs1 imm) })

/-- FDIV: `a * b^(P-2) mod P` for every modulus above 2, prime or not; the errors in order of test
(R155, R145, R199). -/
def Obligations.FdivDividesOrRaises : Prop :=
  ∀ (fd fs1 fs2 : FIdx) (s : State),
    (∀ a b, s.f[fs1] = some a → s.f[fs2] = some b →
      (2 < s.modulus.toNat → b ≠ 0#256 →
        ∃ v : U256, v.toNat = fermatQuotient a.toNat b.toNat s.modulus.toNat ∧
          exec (.fdiv fd fs1 fs2) s = .next { s with f := s.f.set fd (some v) }) ∧
      (2 < s.modulus.toNat → b = 0#256 →
        exec (.fdiv fd fs1 fs2) s =
          .next { s with
            err := some .divisionByZero, ecmd := commandWord (.fdiv fd fs1 fs2) }) ∧
      (s.modulus.toNat ≤ 2 →
        exec (.fdiv fd fs1 fs2) s =
          .next { s with
            err := some .invalidModulus, ecmd := commandWord (.fdiv fd fs1 fs2) })) ∧
    (s.f[fs1] = none ∨ s.f[fs2] = none →
      exec (.fdiv fd fs1 fs2) s =
        .next { s with err := some .invalidRegister, ecmd := commandWord (.fdiv fd fs1 fs2) })

/-- FEXP: `(a ^ e) mod P` for any raw e, with `a ^ 0 = 1`; no modulus and no operand is rejected
(R157, R145). -/
def Obligations.FexpRaisesToPower : Prop :=
  ∀ (fd fs1 : FIdx) (ks2 : KIdx) (s : State),
    (∀ a, s.ModulusLegal → s.f[fs1] = some a →
      ∃ v : U256, v.toNat = a.toNat ^ s.k[ks2].toNat % s.modulus.toNat ∧
        exec (.fexp fd fs1 ks2) s = .next { s with f := s.f.set fd (some v) }) ∧
    (s.f[fs1] = none →
      exec (.fexp fd fs1 ks2) s =
        .next { s with err := some .invalidRegister, ecmd := commandWord (.fexp fd fs1 ks2) })

/-- FEQ: `EQ` is 1 exactly when the residues are equal; `EQ` keeps its value when a source is invalid
(R156). -/
def Obligations.FeqCompares : Prop :=
  ∀ (fs1 fs2 : FIdx) (s : State),
    (∀ a b, s.f[fs1] = some a → s.f[fs2] = some b →
      exec (.feq fs1 fs2) s = .next { s with eqFlag := decide (a.toNat = b.toNat) }) ∧
    (s.f[fs1] = none ∨ s.f[fs2] = none →
      exec (.feq fs1 fs2) s =
        .next { s with err := some .invalidRegister, ecmd := commandWord (.feq fs1 fs2) })

/-- For a prime modulus above 2 the division is the field quotient: the result times the divisor is the
dividend (R145, R158). -/
def Obligations.FdivIsQuotientForPrimes : Prop :=
  ∀ (fd fs1 fs2 : FIdx) (s : State) (a b : U256),
    s.modulus.toNat.Prime → 2 < s.modulus.toNat → s.Canonical →
    s.f[fs1] = some a → s.f[fs2] = some b → b ≠ 0#256 →
      ∃ v : U256, v.toNat < s.modulus.toNat ∧ v.toNat * b.toNat % s.modulus.toNat = a.toNat ∧
        exec (.fdiv fd fs1 fs2) s = .next { s with f := s.f.set fd (some v) }

/-- "a.exponentiate(P−2) == 1/a for all a≠0" (R158), for every modulus above 2: FEXP by P - 2 and FDIV
of 1 by a leave the same state. -/
def Obligations.FexpByFermatExponentIsInverse : Prop :=
  ∀ (fd fs one : FIdx) (ks : KIdx) (s : State) (a : U256),
    2 < s.modulus.toNat → s.f[fs] = some a → a ≠ 0#256 → s.f[one] = some 1#256 →
    s.k[ks].toNat = s.modulus.toNat - 2 →
      ∃ t, exec (.fexp fd fs ks) s = .next t ∧ exec (.fdiv fd one fs) s = .next t

/-- Negation is an involution through the commands (R151, R177): FNEG twice and PNEG twice return the
operand. -/
def Obligations.NegationIsInvolution : Prop :=
  ∀ s : State, s.Canonical →
    (∀ (fs fd fe : FIdx) (a : U256), s.f[fs] = some a →
      ∃ t u, exec (.fneg fd fs) s = .next t ∧ exec (.fneg fe fd) t = .next u ∧
        u.f[fe] = some a) ∧
    (∀ (qs qd qe : QIdx) (p : Point), s.q[qs] = some p →
      ∃ t u, exec (.pneg qd qs) s = .next t ∧ exec (.pneg qe qd) t = .next u ∧
        u.q[qe] = some p)

/-- Scaling by k gives the residue that multiplying by the element FLD makes of k gives (R144). -/
def Obligations.FsclAgreesWithFldThenFmul : Prop :=
  ∀ (fd fs ft : FIdx) (ks : KIdx) (s : State) (a : U256),
    s.ModulusLegal → s.f[fs] = some a → ft ≠ fs →
      ∃ t u v, exec (.fld ft ks) s = .next t ∧ exec (.fmul fd fs ft) t = .next u ∧
        exec (.fscl fd fs ks) s = .next v ∧ u.f[fd] = v.f[fd]

/-! ### Point commands (43_point.md) -/

/-- PIDN writes (0, 1) and PGEN the wired generator, in every state (R172, R173). -/
def Obligations.PidnPgenWriteConstants : Prop :=
  ∀ (qd : QIdx) (s : State),
    exec (.pidn qd) s = .next { s with q := s.q.set qd (some ⟨0#256, 1#256⟩) } ∧
    exec (.pgen qd) s = .next { s with q := s.q.set qd (some ⟨s.cfg.genX, s.cfg.genY⟩) }

/-- PADD: the unified addition law over the integers modulo P25519, each quotient the Fermat one, for
every pair, on the curve or not; DivisionByZero exactly when a denominator is 0 (R174, R175, R179). -/
def Obligations.PaddAddsOrRaises : Prop :=
  ∀ (qd qs1 qs2 : QIdx) (s : State),
    (∀ p1 p2 : Point, s.q[qs1] = some p1 → s.q[qs2] = some p2 →
      (((1 + crossTermNat s.cfg.curveD p1 p2) % p25519.toNat ≠ 0 ∧
          (1 + p25519.toNat - crossTermNat s.cfg.curveD p1 p2) % p25519.toNat ≠ 0) →
        ∃ p : Point,
          p.x.toNat = fermatQuotient
            (p1.x.toNat * p2.y.toNat + p1.y.toNat * p2.x.toNat)
            ((1 + crossTermNat s.cfg.curveD p1 p2) % p25519.toNat) p25519.toNat ∧
          p.y.toNat = fermatQuotient
            (p1.y.toNat * p2.y.toNat + p1.x.toNat * p2.x.toNat)
            ((1 + p25519.toNat - crossTermNat s.cfg.curveD p1 p2) % p25519.toNat)
            p25519.toNat ∧
          exec (.padd qd qs1 qs2) s = .next { s with q := s.q.set qd (some p) }) ∧
      (((1 + crossTermNat s.cfg.curveD p1 p2) % p25519.toNat = 0 ∨
          (1 + p25519.toNat - crossTermNat s.cfg.curveD p1 p2) % p25519.toNat = 0) →
        exec (.padd qd qs1 qs2) s =
          .next { s with
            err := some .divisionByZero, ecmd := commandWord (.padd qd qs1 qs2) })) ∧
    (s.q[qs1] = none ∨ s.q[qs2] = none →
      exec (.padd qd qs1 qs2) s =
        .next { s with err := some .invalidRegister, ecmd := commandWord (.padd qd qs1 qs2) })

/-- PNEG: `(−x, y)` modulo P25519 (R177). -/
def Obligations.PnegNegates : Prop :=
  ∀ (qd qs1 : QIdx) (s : State),
    (∀ p, s.Canonical → s.q[qs1] = some p →
      ∃ x : U256, (x.toNat : Int) = ((p25519.toNat : Int) - p.x.toNat) % p25519.toNat ∧
        exec (.pneg qd qs1) s = .next { s with q := s.q.set qd (some ⟨x, p.y⟩) }) ∧
    (s.q[qs1] = none →
      exec (.pneg qd qs1) s =
        .next { s with err := some .invalidRegister, ecmd := commandWord (.pneg qd qs1) })

/-- PSUB completes exactly where the denominators of the addition law with the negated subtrahend are
not 0, with the coordinates of R174, and raises DivisionByZero elsewhere (R178, R179). -/
def Obligations.PsubSubtractsOrRaises : Prop :=
  ∀ (qd qs1 qs2 : QIdx) (s : State),
    (∀ p1 p2 n2 : Point, s.q[qs1] = some p1 → s.q[qs2] = some p2 →
      n2.x.toNat = (p25519.toNat - p2.x.toNat) % p25519.toNat → n2.y = p2.y →
      (((1 + crossTermNat s.cfg.curveD p1 n2) % p25519.toNat ≠ 0 ∧
          (1 + p25519.toNat - crossTermNat s.cfg.curveD p1 n2) % p25519.toNat ≠ 0) →
        ∃ p : Point,
          p.x.toNat = fermatQuotient
            (p1.x.toNat * n2.y.toNat + p1.y.toNat * n2.x.toNat)
            ((1 + crossTermNat s.cfg.curveD p1 n2) % p25519.toNat) p25519.toNat ∧
          p.y.toNat = fermatQuotient
            (p1.y.toNat * n2.y.toNat + p1.x.toNat * n2.x.toNat)
            ((1 + p25519.toNat - crossTermNat s.cfg.curveD p1 n2) % p25519.toNat)
            p25519.toNat ∧
          exec (.psub qd qs1 qs2) s = .next { s with q := s.q.set qd (some p) }) ∧
      (((1 + crossTermNat s.cfg.curveD p1 n2) % p25519.toNat = 0 ∨
          (1 + p25519.toNat - crossTermNat s.cfg.curveD p1 n2) % p25519.toNat = 0) →
        exec (.psub qd qs1 qs2) s =
          .next { s with
            err := some .divisionByZero, ecmd := commandWord (.psub qd qs1 qs2) })) ∧
    (s.q[qs1] = none ∨ s.q[qs2] = none →
      exec (.psub qd qs1 qs2) s =
        .next { s with err := some .invalidRegister, ecmd := commandWord (.psub qd qs1 qs2) })

/-- PEQ: `EQ` is 1 exactly when both coordinates are equal; `EQ` keeps its value when a source is
invalid (R180). -/
def Obligations.PeqCompares : Prop :=
  ∀ (qs1 qs2 : QIdx) (s : State),
    (∀ p1 p2, s.q[qs1] = some p1 → s.q[qs2] = some p2 →
      exec (.peq qs1 qs2) s =
        .next { s with
          eqFlag := decide (p1.x.toNat = p2.x.toNat ∧ p1.y.toNat = p2.y.toNat) }) ∧
    (s.q[qs1] = none ∨ s.q[qs2] = none →
      exec (.peq qs1 qs2) s =
        .next { s with err := some .invalidRegister, ecmd := commandWord (.peq qs1 qs2) })

/-- The addition law is commutative for all pairs, on the curve or not, with any d (R176, which the
spec marks as derived from R174). -/
def Obligations.AdditionCommutes : Prop :=
  ∀ (d : U256) (p1 p2 : Point), padd d p1 p2 = padd d p2 p1

/-- Adding the identity, on either side, returns the other operand, for every canonical pair and any d
(R175). -/
def Obligations.IdentityIsNeutral : Prop :=
  ∀ (qd qs1 qs2 : QIdx) (s : State) (p : Point), s.Canonical →
    s.q[qs1] = some p → s.q[qs2] = some ⟨0#256, 1#256⟩ →
      exec (.padd qd qs1 qs2) s = .next { s with q := s.q.set qd (some p) } ∧
      exec (.padd qd qs2 qs1) s = .next { s with q := s.q.set qd (some p) }

/-- "Points produced from on-curve inputs by PIDN, PGEN, PADD, PNEG and PSUB are on the curve",
"provided `GEN_X`, `GEN_Y` satisfy the equation for `CURVE_D`" (R171, which derives it): when every
valid Q register is on the curve, every step that serves no PLD leaves them all on it. Any d. -/
def Obligations.PointsStayOnCurve : Prop :=
  ∀ s t : State, s.Canonical → OnCurve s.cfg.curveD ⟨s.cfg.genX, s.cfg.genY⟩ →
    (∀ (i : QIdx) (p : Point), s.q[i] = some p → OnCurve s.cfg.curveD p) →
    (∀ w rest qd ksx ksy, s.pending = .write addrCmd w :: rest →
      decode w ≠ .ok (.pld qd ksx ksy)) →
    step s = .next t →
      ∀ (i : QIdx) (p : Point), t.q[i] = some p → OnCurve t.cfg.curveD p

/-- "For valid Q registers that hold points of the curve neither denominator is ever 0 and the command
never raises" (R179, which derives it from the completeness of the law). The law is complete for a d
that is no square modulo P25519, which is the premise here; the default `CURVE_D` is one. -/
def Obligations.PointCommandsCompleteOnCurve : Prop :=
  ∀ (i : Instr) (s : State), i.isPoint = true →
    (∀ n : Nat, n ^ 2 % p25519.toNat ≠ s.cfg.curveD.toNat % p25519.toNat) → s.Canonical →
    (∀ (r : QIdx) (p : Point), s.q[r] = some p → OnCurve s.cfg.curveD p) →
    (∀ r ∈ i.qSources, s.q[r] ≠ none) →
      ∃ t, exec i s = .next t ∧ t.err = s.err

/-! ### Pseudo-instructions (30_encoding.md) -/

/-- `KLI Ki, v` loads the raw register in four steps and leaves everything else (R93). -/
def Obligations.KliLoadsARawRegister : Prop :=
  ∀ (s : State) (i : KIdx) (v : U256) (rest : List HostEvent), s.pending = kli i v ++ rest →
    Host.Core.run Sys2Proof.core 4 s =
      .next { s with k := s.k.set i v, pending := rest, rsp := none }

/-- `FZERO`, `FONE` and `FMOV` write 0, `1 mod MOD` and a copy (R93). -/
def Obligations.FieldPseudoInstructions : Prop :=
  ∀ (fd : FIdx) (s : State), s.Canonical →
    exec (fzero fd) s = .next { s with f := s.f.set fd (some 0#256) } ∧
    (∃ v : U256, v.toNat = 1 % s.modulus.toNat ∧
      exec (fone fd) s = .next { s with f := s.f.set fd (some v) }) ∧
    ∀ (fs : FIdx) (a : U256), s.f[fs] = some a →
      exec (fmov fd fs) s = .next { s with f := s.f.set fd (some a) }
end

