-- ==== Sys2Proof/Laws/Encoding.lean ====
section
/-! SUPPORT. The fields of an encoded word read back (30_encoding.md R81). -/

namespace Sys2Proof

/-- A bit of a placed field. -/
theorem getElem_fieldAt {n : Nat} (w lo : Nat) (x : BitVec n) (i : Nat) (h : i < w) :
    (fieldAt w lo x)[i] = (!decide (i < lo) && x.getLsbD (i - lo)) := by
  simp [fieldAt]

/-! ### R-format -/

@[simp] theorem opcodeField_rFormat (op : BitVec 8) (rd rs1 rs2 : Nat) :
    opcodeField (rFormat op rd rs1 rs2) = op := by
  apply BitVec.eq_of_getLsbD_eq
  intro i hi
  interval_cases i <;> simp [opcodeField, rFormat, getElem_fieldAt]

@[simp] theorem rdField_rFormat (op : BitVec 8) (rd rs1 rs2 : Nat) :
    rdField (rFormat op rd rs1 rs2) = BitVec.ofNat 4 rd := by
  apply BitVec.eq_of_getLsbD_eq
  intro i hi
  interval_cases i <;> simp [rdField, rFormat, getElem_fieldAt]

@[simp] theorem rs1Field_rFormat (op : BitVec 8) (rd rs1 rs2 : Nat) :
    rs1Field (rFormat op rd rs1 rs2) = BitVec.ofNat 4 rs1 := by
  apply BitVec.eq_of_getLsbD_eq
  intro i hi
  interval_cases i <;> simp [rs1Field, rFormat, getElem_fieldAt]

@[simp] theorem rs2Field_rFormat (op : BitVec 8) (rd rs1 rs2 : Nat) :
    rs2Field (rFormat op rd rs1 rs2) = BitVec.ofNat 4 rs2 := by
  apply BitVec.eq_of_getLsbD_eq
  intro i hi
  interval_cases i <;> simp [rs2Field, rFormat, getElem_fieldAt]

/-! ### I-format -/

@[simp] theorem opcodeField_iFormat (op : BitVec 8) (rd rs1 : Nat) (imm : BitVec 16) :
    opcodeField (iFormat op rd rs1 imm) = op := by
  apply BitVec.eq_of_getLsbD_eq
  intro i hi
  interval_cases i <;> simp [opcodeField, iFormat, getElem_fieldAt]

@[simp] theorem rdField_iFormat (op : BitVec 8) (rd rs1 : Nat) (imm : BitVec 16) :
    rdField (iFormat op rd rs1 imm) = BitVec.ofNat 4 rd := by
  apply BitVec.eq_of_getLsbD_eq
  intro i hi
  interval_cases i <;> simp [rdField, iFormat, getElem_fieldAt]

@[simp] theorem rs1Field_iFormat (op : BitVec 8) (rd rs1 : Nat) (imm : BitVec 16) :
    rs1Field (iFormat op rd rs1 imm) = BitVec.ofNat 4 rs1 := by
  apply BitVec.eq_of_getLsbD_eq
  intro i hi
  interval_cases i <;> simp [rs1Field, iFormat, getElem_fieldAt]

@[simp] theorem imm16Field_iFormat (op : BitVec 8) (rd rs1 : Nat) (imm : BitVec 16) :
    imm16Field (iFormat op rd rs1 imm) = imm := by
  apply BitVec.eq_of_getLsbD_eq
  intro i hi
  interval_cases i <;> simp [imm16Field, iFormat, getElem_fieldAt]

/-! ### What a selected row says about the fields of a word -/

/-- A row that selects a word fixes the masked bits of each field. -/
theorem Row.selects_fields {r : Row} {w : BitVec 32} (h : r.selects w = true) :
    opcodeField w &&& opcodeField r.mask = opcodeField r.pattern ∧
      rdField w &&& rdField r.mask = rdField r.pattern ∧
      rs1Field w &&& rs1Field r.mask = rs1Field r.pattern ∧
      rs2Field w &&& rs2Field r.mask = rs2Field r.pattern ∧
      w.extractLsb' 0 12 &&& r.mask.extractLsb' 0 12 = r.pattern.extractLsb' 0 12 := by
  have hw : w &&& r.mask = r.pattern := by simpa [Row.selects] using h
  simp only [opcodeField, rdField, rs1Field, rs2Field, ← BitVec.extractLsb'_and, hw, and_self]

theorem index8_back {x : BitVec 4} (h : x &&& 8#4 = 0#4) : BitVec.ofNat 4 (index8 x) = x := by
  revert x; decide

theorem index4_back {x : BitVec 4} (h : x &&& 12#4 = 0#4) : BitVec.ofNat 4 (index4 x) = x := by
  revert x; decide

theorem unused_back {x : BitVec 4} (h : x &&& 15#4 = 0#4) : BitVec.ofNat 4 0 = x := by
  revert x; decide

@[simp] theorem index8_ofNat (i : FIdx) : index8 (BitVec.ofNat 4 i) = i := by revert i; decide

@[simp] theorem index4_ofNat (i : Fin 4) : index4 (BitVec.ofNat 4 i) = i := by revert i; decide

/-- A word is the R-format word of its fields when bits 11:0 are zero. -/
theorem rFormat_of_fields {w : BitVec 32} {op : BitVec 8} {rd rs1 rs2 : Nat}
    (h1 : opcodeField w = op) (h2 : BitVec.ofNat 4 rd = rdField w)
    (h3 : BitVec.ofNat 4 rs1 = rs1Field w) (h4 : BitVec.ofNat 4 rs2 = rs2Field w)
    (h5 : w.extractLsb' 0 12 = 0#12) : rFormat op rd rs1 rs2 = w := by
  have low : ∀ i, i < 12 → w.getLsbD i = false := by
    intro i hi
    have := congrArg (fun v : BitVec 12 => v.getLsbD i) h5
    simpa [hi] using this
  apply BitVec.eq_of_getLsbD_eq
  intro i hi
  rw [rFormat, h2, h3, h4, ← h1]
  have := low i
  interval_cases i <;>
    simp [getElem_fieldAt, opcodeField, rdField, rs1Field, rs2Field] at * <;> simp [this]

/-- A word is the I-format word of its fields. -/
theorem iFormat_of_fields {w : BitVec 32} {op : BitVec 8} {rd rs1 : Nat}
    (h1 : opcodeField w = op) (h2 : BitVec.ofNat 4 rd = rdField w)
    (h3 : BitVec.ofNat 4 rs1 = rs1Field w) : iFormat op rd rs1 (imm16Field w) = w := by
  apply BitVec.eq_of_getLsbD_eq
  intro i hi
  rw [iFormat, h2, h3, ← h1]
  interval_cases i <;>
    simp [getElem_fieldAt, opcodeField, rdField, rs1Field, imm16Field]

/-! ### The 64-bit value -/

@[simp] theorem upperHalf_commandWord (i : Instr) :
    (commandWord i).extractLsb' 32 32 = 0#32 := by
  apply BitVec.eq_of_getLsbD_eq
  intro j hj
  simp [commandWord]

@[simp] theorem lowHalf_commandWord (i : Instr) : (commandWord i).setWidth 32 = encode i := by
  simp [commandWord]

end Sys2Proof
end

