-- ==== Sys2Proof/Laws/Field.lean ====
section
/-! SUPPORT. The values of the field functions, and the cases of the divisions. -/

namespace Sys2Proof.Machine

/-! ### The datapath primitive -/

set_option exponentiation.threshold 512 in
/-- The widening multiply loses nothing. -/
@[simp] theorem u256Mulw_toNat (a b : U256) : (u256Mulw a b).toNat = a.toNat * b.toNat := by
  have h : a.toNat * b.toNat < 2 ^ 512 := by
    calc a.toNat * b.toNat < 2 ^ 256 * 2 ^ 256 := Nat.mul_lt_mul'' a.isLt b.isLt
      _ = 2 ^ 512 := by rw [← pow_add]
  have ha : a.toNat % 2 ^ 512 = a.toNat :=
    Nat.mod_eq_of_lt (lt_trans a.isLt (Nat.pow_lt_pow_right (by decide) (by decide)))
  have hb : b.toNat % 2 ^ 512 = b.toNat :=
    Nat.mod_eq_of_lt (lt_trans b.isLt (Nat.pow_lt_pow_right (by decide) (by decide)))
  rw [u256Mulw, BitVec.toNat_mul, BitVec.toNat_setWidth, BitVec.toNat_setWidth, ha, hb,
    Nat.mod_eq_of_lt h]

/-- A remainder by a legal modulus loses nothing in 256 bits. -/
theorem rem_toNat (x : Nat) {p : U256} (hp : 1 ≤ p.toNat) : (rem x p).toNat = x % p.toNat := by
  rw [rem, BitVec.toNat_ofNat]
  exact Nat.mod_eq_of_lt (lt_trans (Nat.mod_lt _ hp) p.isLt)

/-- A remainder by a legal modulus is canonical. -/
theorem rem_lt (x : Nat) {p : U256} (hp : 1 ≤ p.toNat) : (rem x p).toNat < p.toNat := by
  rw [rem_toNat x hp]
  exact Nat.mod_lt _ hp

theorem p25519_pos : 1 ≤ p25519.toNat := by decide

theorem two_lt_p25519 : 2 < p25519.toNat := by decide

/-! ### The field functions -/

theorem fadd_toNat (a b : U256) {p : U256} (hp : 1 ≤ p.toNat) :
    (fadd a b p).toNat = (a.toNat + b.toNat) % p.toNat := rem_toNat _ hp

theorem fsub_toNat (a b : U256) {p : U256} (hp : 1 ≤ p.toNat) :
    (fsub a b p).toNat = (a.toNat + p.toNat - b.toNat) % p.toNat := rem_toNat _ hp

theorem fneg_toNat (a : U256) {p : U256} (hp : 1 ≤ p.toNat) :
    (fneg a p).toNat = (p.toNat - a.toNat) % p.toNat := rem_toNat _ hp

theorem fmul_toNat (a b : U256) {p : U256} (hp : 1 ≤ p.toNat) :
    (fmul a b p).toNat = a.toNat * b.toNat % p.toNat := by
  rw [fmul, rem_toNat _ hp, u256Mulw_toNat]

theorem fscale_toNat (a k : U256) {p : U256} (hp : 1 ≤ p.toNat) :
    (fscale a k p).toNat = a.toNat * k.toNat % p.toNat := by
  rw [fscale, rem_toNat _ hp, u256Mulw_toNat]

/-- The loop of R148 keeps the accumulator canonical. -/
theorem powmodLoop_lt (a e : U256) {p : U256} (hp : 1 ≤ p.toNat) :
    ∀ (i : Nat) (h : i ≤ 256) (acc : U256), acc.toNat < p.toNat →
      (powmodLoop a e p i h acc).toNat < p.toNat
  | 0, _, _, hacc => hacc
  | i + 1, h, acc, _ => by
    simp only [powmodLoop]
    refine powmodLoop_lt a e hp i _ _ ?_
    split <;> exact rem_lt _ hp

theorem fpow_lt (a e : U256) {p : U256} (hp : 1 ≤ p.toNat) : (fpow a e p).toNat < p.toNat :=
  powmodLoop_lt a e hp _ _ _ (rem_lt _ hp)

theorem fmul_lt (a b : U256) {p : U256} (hp : 1 ≤ p.toNat) : (fmul a b p).toNat < p.toNat :=
  rem_lt _ hp

/-! ### The divisions -/

theorem fdiv_small {a b p : U256} (h : p.toNat ≤ 2) : fdiv a b p = .error .invalidModulus := by
  simp [fdiv, h]

theorem fdiv_zero {a p : U256} (h : 2 < p.toNat) : fdiv a 0#256 p = .error .divisionByZero := by
  simp [fdiv, not_le.mpr h]

theorem fdiv_nonzero {a b p : U256} (h : 2 < p.toNat) (hb : b ≠ 0#256) :
    fdiv a b p = .ok (fmul a (fpow b (u256Sub p 2#256) p) p) := by
  simp [fdiv, not_le.mpr h, hb]

/-- All a division can answer. -/
theorem fdiv_cases (a b p : U256) :
    (p.toNat ≤ 2 ∧ fdiv a b p = .error .invalidModulus) ∨
      (2 < p.toNat ∧ b = 0#256 ∧ fdiv a b p = .error .divisionByZero) ∨
      (2 < p.toNat ∧ b ≠ 0#256 ∧
        fdiv a b p = .ok (fmul a (fpow b (u256Sub p 2#256) p) p)) := by
  rcases Nat.lt_or_ge 2 p.toNat with h | h
  · by_cases hb : b = 0#256
    · subst hb; exact .inr (.inl ⟨h, rfl, fdiv_zero h⟩)
    · exact .inr (.inr ⟨h, hb, fdiv_nonzero h hb⟩)
  · exact .inl ⟨h, fdiv_small h⟩

/-- All point addition can answer: DivisionByZero, or a canonical pair. -/
theorem padd_cases (d : U256) (p1 p2 : Point) :
    padd d p1 p2 = .error .divisionByZero ∨
      ∃ p, padd d p1 p2 = .ok p ∧ p.x.toNat < p25519.toNat ∧ p.y.toNat < p25519.toNat := by
  simp only [padd]
  rcases fdiv_cases (fadd (fmul p1.x p2.y p25519) (fmul p1.y p2.x p25519) p25519)
      (fadd 1#256 (crossTerm d p1 p2) p25519) p25519 with ⟨h, -⟩ | ⟨-, -, h⟩ | ⟨-, -, h⟩
  · exact absurd h (not_le.mpr two_lt_p25519)
  · exact .inl (by rw [h]; rfl)
  · rw [h]
    rcases fdiv_cases (fadd (fmul p1.y p2.y p25519) (fmul p1.x p2.x p25519) p25519)
        (fsub 1#256 (crossTerm d p1 p2) p25519) p25519 with ⟨h', -⟩ | ⟨-, -, h'⟩ | ⟨-, -, h'⟩
    · exact absurd h' (not_le.mpr two_lt_p25519)
    · exact .inl (by rw [h']; rfl)
    · rw [h']
      exact .inr ⟨_, rfl, fmul_lt _ _ p25519_pos, fmul_lt _ _ p25519_pos⟩

end Sys2Proof.Machine
end

