-- ==== Sys2Proof/Laws/State.lean ====
section
/-! SUPPORT. What each update of the state does to each field: one lemma per field per update. -/

namespace Sys2Proof.Machine

/-! ### State.setK -/

@[simp] theorem State.setK_k (s : State) (i : KIdx) (v : U256) :
    (s.setK i v).k = s.k.set i v := rfl

@[simp] theorem State.setK_modulus (s : State) (i : KIdx) (v : U256) :
    (s.setK i v).modulus = s.modulus := rfl

@[simp] theorem State.setK_f (s : State) (i : KIdx) (v : U256) : (s.setK i v).f = s.f := rfl

@[simp] theorem State.setK_q (s : State) (i : KIdx) (v : U256) : (s.setK i v).q = s.q := rfl

@[simp] theorem State.setK_eqFlag (s : State) (i : KIdx) (v : U256) :
    (s.setK i v).eqFlag = s.eqFlag := rfl

@[simp] theorem State.setK_err (s : State) (i : KIdx) (v : U256) : (s.setK i v).err = s.err := rfl

@[simp] theorem State.setK_ecmd (s : State) (i : KIdx) (v : U256) :
    (s.setK i v).ecmd = s.ecmd := rfl

@[simp] theorem State.setK_cfg (s : State) (i : KIdx) (v : U256) : (s.setK i v).cfg = s.cfg := rfl

@[simp] theorem State.setK_pending (s : State) (i : KIdx) (v : U256) :
    (s.setK i v).pending = s.pending := rfl

@[simp] theorem State.setK_rsp (s : State) (i : KIdx) (v : U256) : (s.setK i v).rsp = s.rsp := rfl

/-! ### State.setF -/

@[simp] theorem State.setF_k (s : State) (i : FIdx) (v : U256) : (s.setF i v).k = s.k := rfl

@[simp] theorem State.setF_modulus (s : State) (i : FIdx) (v : U256) :
    (s.setF i v).modulus = s.modulus := rfl

@[simp] theorem State.setF_f (s : State) (i : FIdx) (v : U256) :
    (s.setF i v).f = s.f.set i (some v) := rfl

@[simp] theorem State.setF_q (s : State) (i : FIdx) (v : U256) : (s.setF i v).q = s.q := rfl

@[simp] theorem State.setF_eqFlag (s : State) (i : FIdx) (v : U256) :
    (s.setF i v).eqFlag = s.eqFlag := rfl

@[simp] theorem State.setF_err (s : State) (i : FIdx) (v : U256) : (s.setF i v).err = s.err := rfl

@[simp] theorem State.setF_ecmd (s : State) (i : FIdx) (v : U256) :
    (s.setF i v).ecmd = s.ecmd := rfl

@[simp] theorem State.setF_cfg (s : State) (i : FIdx) (v : U256) : (s.setF i v).cfg = s.cfg := rfl

@[simp] theorem State.setF_pending (s : State) (i : FIdx) (v : U256) :
    (s.setF i v).pending = s.pending := rfl

@[simp] theorem State.setF_rsp (s : State) (i : FIdx) (v : U256) : (s.setF i v).rsp = s.rsp := rfl

/-! ### State.setQ -/

@[simp] theorem State.setQ_k (s : State) (i : QIdx) (p : Point) : (s.setQ i p).k = s.k := rfl

@[simp] theorem State.setQ_modulus (s : State) (i : QIdx) (p : Point) :
    (s.setQ i p).modulus = s.modulus := rfl

@[simp] theorem State.setQ_f (s : State) (i : QIdx) (p : Point) : (s.setQ i p).f = s.f := rfl

@[simp] theorem State.setQ_q (s : State) (i : QIdx) (p : Point) :
    (s.setQ i p).q = s.q.set i (some p) := rfl

@[simp] theorem State.setQ_eqFlag (s : State) (i : QIdx) (p : Point) :
    (s.setQ i p).eqFlag = s.eqFlag := rfl

@[simp] theorem State.setQ_err (s : State) (i : QIdx) (p : Point) :
    (s.setQ i p).err = s.err := rfl

@[simp] theorem State.setQ_ecmd (s : State) (i : QIdx) (p : Point) :
    (s.setQ i p).ecmd = s.ecmd := rfl

@[simp] theorem State.setQ_cfg (s : State) (i : QIdx) (p : Point) :
    (s.setQ i p).cfg = s.cfg := rfl

@[simp] theorem State.setQ_pending (s : State) (i : QIdx) (p : Point) :
    (s.setQ i p).pending = s.pending := rfl

@[simp] theorem State.setQ_rsp (s : State) (i : QIdx) (p : Point) :
    (s.setQ i p).rsp = s.rsp := rfl

/-! ### State.loadModulus -/

@[simp] theorem State.loadModulus_k (s : State) (v : U256) : (s.loadModulus v).k = s.k := rfl

@[simp] theorem State.loadModulus_modulus (s : State) (v : U256) :
    (s.loadModulus v).modulus = v := rfl

@[simp] theorem State.loadModulus_f (s : State) (v : U256) :
    (s.loadModulus v).f = Vector.replicate 8 none := rfl

@[simp] theorem State.loadModulus_q (s : State) (v : U256) : (s.loadModulus v).q = s.q := rfl

@[simp] theorem State.loadModulus_eqFlag (s : State) (v : U256) :
    (s.loadModulus v).eqFlag = s.eqFlag := rfl

@[simp] theorem State.loadModulus_err (s : State) (v : U256) :
    (s.loadModulus v).err = s.err := rfl

@[simp] theorem State.loadModulus_ecmd (s : State) (v : U256) :
    (s.loadModulus v).ecmd = s.ecmd := rfl

@[simp] theorem State.loadModulus_cfg (s : State) (v : U256) :
    (s.loadModulus v).cfg = s.cfg := rfl

@[simp] theorem State.loadModulus_pending (s : State) (v : U256) :
    (s.loadModulus v).pending = s.pending := rfl

@[simp] theorem State.loadModulus_rsp (s : State) (v : U256) :
    (s.loadModulus v).rsp = s.rsp := rfl

/-! ### State.setEq -/

@[simp] theorem State.setEq_k (s : State) (b : Bool) : (s.setEq b).k = s.k := rfl

@[simp] theorem State.setEq_modulus (s : State) (b : Bool) :
    (s.setEq b).modulus = s.modulus := rfl

@[simp] theorem State.setEq_f (s : State) (b : Bool) : (s.setEq b).f = s.f := rfl

@[simp] theorem State.setEq_q (s : State) (b : Bool) : (s.setEq b).q = s.q := rfl

@[simp] theorem State.setEq_eqFlag (s : State) (b : Bool) : (s.setEq b).eqFlag = b := rfl

@[simp] theorem State.setEq_err (s : State) (b : Bool) : (s.setEq b).err = s.err := rfl

@[simp] theorem State.setEq_ecmd (s : State) (b : Bool) : (s.setEq b).ecmd = s.ecmd := rfl

@[simp] theorem State.setEq_cfg (s : State) (b : Bool) : (s.setEq b).cfg = s.cfg := rfl

@[simp] theorem State.setEq_pending (s : State) (b : Bool) :
    (s.setEq b).pending = s.pending := rfl

@[simp] theorem State.setEq_rsp (s : State) (b : Bool) : (s.setEq b).rsp = s.rsp := rfl

/-! ### State.raise -/

@[simp] theorem State.raise_k (s : State) (e : CmdError) (w : U64) : (s.raise e w).k = s.k := rfl

@[simp] theorem State.raise_modulus (s : State) (e : CmdError) (w : U64) :
    (s.raise e w).modulus = s.modulus := rfl

@[simp] theorem State.raise_f (s : State) (e : CmdError) (w : U64) : (s.raise e w).f = s.f := rfl

@[simp] theorem State.raise_q (s : State) (e : CmdError) (w : U64) : (s.raise e w).q = s.q := rfl

@[simp] theorem State.raise_eqFlag (s : State) (e : CmdError) (w : U64) :
    (s.raise e w).eqFlag = s.eqFlag := rfl

@[simp] theorem State.raise_err (s : State) (e : CmdError) (w : U64) :
    (s.raise e w).err = some e := rfl

@[simp] theorem State.raise_ecmd (s : State) (e : CmdError) (w : U64) :
    (s.raise e w).ecmd = w := rfl

@[simp] theorem State.raise_cfg (s : State) (e : CmdError) (w : U64) :
    (s.raise e w).cfg = s.cfg := rfl

@[simp] theorem State.raise_pending (s : State) (e : CmdError) (w : U64) :
    (s.raise e w).pending = s.pending := rfl

@[simp] theorem State.raise_rsp (s : State) (e : CmdError) (w : U64) :
    (s.raise e w).rsp = s.rsp := rfl

/-! ### State.clearError -/

@[simp] theorem State.clearError_k (s : State) : (s.clearError).k = s.k := rfl

@[simp] theorem State.clearError_modulus (s : State) : (s.clearError).modulus = s.modulus := rfl

@[simp] theorem State.clearError_f (s : State) : (s.clearError).f = s.f := rfl

@[simp] theorem State.clearError_q (s : State) : (s.clearError).q = s.q := rfl

@[simp] theorem State.clearError_eqFlag (s : State) : (s.clearError).eqFlag = s.eqFlag := rfl

@[simp] theorem State.clearError_err (s : State) : (s.clearError).err = none := rfl

@[simp] theorem State.clearError_ecmd (s : State) : (s.clearError).ecmd = 0#64 := rfl

@[simp] theorem State.clearError_cfg (s : State) : (s.clearError).cfg = s.cfg := rfl

@[simp] theorem State.clearError_pending (s : State) : (s.clearError).pending = s.pending := rfl

@[simp] theorem State.clearError_rsp (s : State) : (s.clearError).rsp = s.rsp := rfl

/-! ### State.setKLimb -/

@[simp] theorem State.setKLimb_k (s : State) (i : KIdx) (j : Fin 4) (v : U64) :
    (s.setKLimb i j v).k = s.k.set i (setLimb s.k[i] j v) := rfl

@[simp] theorem State.setKLimb_modulus (s : State) (i : KIdx) (j : Fin 4) (v : U64) :
    (s.setKLimb i j v).modulus = s.modulus := rfl

@[simp] theorem State.setKLimb_f (s : State) (i : KIdx) (j : Fin 4) (v : U64) :
    (s.setKLimb i j v).f = s.f := rfl

@[simp] theorem State.setKLimb_q (s : State) (i : KIdx) (j : Fin 4) (v : U64) :
    (s.setKLimb i j v).q = s.q := rfl

@[simp] theorem State.setKLimb_eqFlag (s : State) (i : KIdx) (j : Fin 4) (v : U64) :
    (s.setKLimb i j v).eqFlag = s.eqFlag := rfl

@[simp] theorem State.setKLimb_err (s : State) (i : KIdx) (j : Fin 4) (v : U64) :
    (s.setKLimb i j v).err = s.err := rfl

@[simp] theorem State.setKLimb_ecmd (s : State) (i : KIdx) (j : Fin 4) (v : U64) :
    (s.setKLimb i j v).ecmd = s.ecmd := rfl

@[simp] theorem State.setKLimb_cfg (s : State) (i : KIdx) (j : Fin 4) (v : U64) :
    (s.setKLimb i j v).cfg = s.cfg := rfl

@[simp] theorem State.setKLimb_pending (s : State) (i : KIdx) (j : Fin 4) (v : U64) :
    (s.setKLimb i j v).pending = s.pending := rfl

@[simp] theorem State.setKLimb_rsp (s : State) (i : KIdx) (j : Fin 4) (v : U64) :
    (s.setKLimb i j v).rsp = s.rsp := rfl

/-! ### State.afterReset -/

@[simp] theorem State.afterReset_k (s : State) :
    (s.afterReset).k = Vector.replicate 4 0#256 := rfl

@[simp] theorem State.afterReset_modulus (s : State) : (s.afterReset).modulus = p25519 := rfl

@[simp] theorem State.afterReset_f (s : State) : (s.afterReset).f = Vector.replicate 8 none := rfl

@[simp] theorem State.afterReset_q (s : State) : (s.afterReset).q = Vector.replicate 4 none := rfl

@[simp] theorem State.afterReset_eqFlag (s : State) : (s.afterReset).eqFlag = false := rfl

@[simp] theorem State.afterReset_err (s : State) : (s.afterReset).err = none := rfl

@[simp] theorem State.afterReset_ecmd (s : State) : (s.afterReset).ecmd = 0#64 := rfl

@[simp] theorem State.afterReset_cfg (s : State) : (s.afterReset).cfg = s.cfg := rfl

@[simp] theorem State.afterReset_pending (s : State) : (s.afterReset).pending = s.pending := rfl

@[simp] theorem State.afterReset_rsp (s : State) : (s.afterReset).rsp = none := rfl

end Sys2Proof.Machine
end

