-- ==== Sys2Proof/Laws/Ops.lean ====
section
/-! SUPPORT. What each shared operation can do: the register files read after a write, the sources,
the literal, and retiring a command. -/

namespace Sys2Proof.Machine

/-! ### Register files -/

theorem State.setK_get (s : State) (i j : KIdx) (v : U256) :
    (s.setK i v).k[j] = if i = j then v else s.k[j] := by
  simp [State.setK, Vector.getElem_set, Fin.ext_iff]

theorem State.setF_get (s : State) (i j : FIdx) (v : U256) :
    (s.setF i v).f[j] = if i = j then some v else s.f[j] := by
  simp [State.setF, Vector.getElem_set, Fin.ext_iff]

theorem State.setQ_get (s : State) (i j : QIdx) (p : Point) :
    (s.setQ i p).q[j] = if i = j then some p else s.q[j] := by
  simp [State.setQ, Vector.getElem_set, Fin.ext_iff]

@[simp] theorem State.loadModulus_get (s : State) (v : U256) (j : FIdx) :
    (s.loadModulus v).f[j] = none := by
  simp [State.loadModulus]

/-! ### Sources -/

@[simp] theorem ok_bind {α β : Type} (a : α) (f : α → Except CmdError β) :
    (Except.ok a >>= f) = f a := rfl

@[simp] theorem error_bind {α β : Type} (e : CmdError) (f : α → Except CmdError β) :
    (Except.error e >>= f) = .error e := rfl

@[simp] theorem pure_eq_ok {α : Type} (a : α) : (pure a : Except CmdError α) = .ok a := rfl

theorem State.fSource_valid {s : State} {i : FIdx} {a : U256} (h : s.f[i] = some a) :
    s.fSource i = .ok a := by
  simp only [State.fSource, h]

theorem State.fSource_invalid {s : State} {i : FIdx} (h : s.f[i] = none) :
    s.fSource i = .error .invalidRegister := by
  simp only [State.fSource, h]

theorem State.fSource_cases (s : State) (i : FIdx) :
    (∃ a, s.f[i] = some a ∧ s.fSource i = .ok a) ∨
      (s.f[i] = none ∧ s.fSource i = .error .invalidRegister) := by
  cases h : s.f[i] with
  | none => exact .inr ⟨rfl, s.fSource_invalid h⟩
  | some a => exact .inl ⟨a, rfl, s.fSource_valid h⟩

theorem State.qSource_valid {s : State} {i : QIdx} {p : Point} (h : s.q[i] = some p) :
    s.qSource i = .ok p := by
  simp only [State.qSource, h]

theorem State.qSource_invalid {s : State} {i : QIdx} (h : s.q[i] = none) :
    s.qSource i = .error .invalidRegister := by
  simp only [State.qSource, h]

theorem State.qSource_cases (s : State) (i : QIdx) :
    (∃ p, s.q[i] = some p ∧ s.qSource i = .ok p) ∨
      (s.q[i] = none ∧ s.qSource i = .error .invalidRegister) := by
  cases h : s.q[i] with
  | none => exact .inr ⟨rfl, s.qSource_invalid h⟩
  | some a => exact .inl ⟨a, rfl, s.qSource_valid h⟩

theorem literal_negative {imm : BitVec 16} (h : imm.toInt < 0) :
    literal imm = .error .representationOverflow := by
  simp [literal, h]

/-- A literal that is not negative is its own value: nothing is lost in 256 bits. -/
theorem literal_nonneg {imm : BitVec 16} (h : 0 ≤ imm.toInt) :
    ∃ v : U256, literal imm = .ok v ∧ (v.toNat : Int) = imm.toInt := by
  refine ⟨BitVec.ofNat 256 imm.toInt.toNat, by simp [literal, not_lt.mpr h], ?_⟩
  have hlt : imm.toInt < 2 ^ 15 := imm.toInt_lt
  have : imm.toInt.toNat < 2 ^ 256 := by omega
  rw [BitVec.toNat_ofNat, Nat.mod_eq_of_lt this, Int.toNat_of_nonneg h]

/-! ### Retiring a command -/

@[simp] theorem retire_ok (i : Instr) (s t : State) : retire i s (.ok t) = .next t := rfl

@[simp] theorem retire_error (i : Instr) (s : State) (e : CmdError) :
    retire i s (.error e) = .next (s.raise e (commandWord i)) := rfl

/-- All a retiring command can do: its writes, or raising its error on the state before it. -/
theorem retire_cases {i : Instr} {s t : State} {r : Except CmdError State}
    (h : retire i s r = .next t) :
    r = .ok t ∨ ∃ e, r = .error e ∧ t = s.raise e (commandWord i) := by
  cases r with
  | ok u => simp only [retire_ok, Host.Outcome.next.injEq] at h; exact .inl (by rw [h])
  | error e =>
    simp only [retire_error, Host.Outcome.next.injEq] at h
    exact .inr ⟨e, rfl, h.symm⟩

/-- A retiring command never stops the machine. -/
theorem retire_next (i : Instr) (s : State) (r : Except CmdError State) :
    ∃ t, retire i s r = .next t := by
  cases r <;> exact ⟨_, rfl⟩

end Sys2Proof.Machine
end

