-- ==== Sys2Proof/Laws/Exec.lean ====
section
/-! SUPPORT. What a command can do, once for all commands: it retires, and it either raises an error
its row of R196 allows or makes exactly one of five writes. -/

namespace Sys2Proof.Machine

/-- Every command retires under its own name: it writes, or it raises with its own word. -/
theorem exec_retires (i : Instr) (s : State) : ∃ r, exec i s = retire i s r := by
  cases i <;> first | exact ⟨_, rfl⟩ | exact ⟨.ok _, rfl⟩

/-- The writes a command can make when it completes. An F value is below a legal modulus, a Q pair
is canonical when the state is. -/
inductive Completes (i : Instr) (s : State) : State → Prop where
  | writesK (r : KIdx) (v : U256) (h : i.kDest = some r) : Completes i s (s.setK r v)
  | writesF (r : FIdx) (v : U256) (h : i.fDest = some r)
      (hv : s.ModulusLegal → v.toNat < s.modulus.toNat) : Completes i s (s.setF r v)
  | writesQ (r : QIdx) (p : Point) (h : i.qDest = some r) (hp : s.Canonical → p.Canonical) :
      Completes i s (s.setQ r p)
  | loadsModulus (v : U256) (h : i.isModld = true) (hv : 1 ≤ v.toNat) :
      Completes i s (s.loadModulus v)
  | writesEq (b : Bool) (h : i.writesEq = true) : Completes i s (s.setEq b)

/-- What retiring with a result can give, when the result completes only as `Completes` says and
raises only what the table allows. -/
def Allowed (i : Instr) (s : State) (r : Except CmdError State) : Prop :=
  (∀ t, r = .ok t → Completes i s t) ∧ ∀ e, r = .error e → i.mayRaise e = true

theorem allowed_ok {i : Instr} {s t : State} (h : Completes i s t) : Allowed i s (.ok t) :=
  ⟨fun _ ht => by cases ht; exact h, nofun⟩

theorem allowed_error {i : Instr} {s : State} {e : CmdError} (h : i.mayRaise e = true) :
    Allowed i s (.error e) :=
  ⟨nofun, fun _ he => by cases he; exact h⟩

theorem allowed_fSource {i : Instr} {s : State} {r : FIdx} {f : U256 → Except CmdError State}
    (he : i.mayRaise .invalidRegister = true)
    (h : ∀ a, s.f[r] = some a → Allowed i s (f a)) : Allowed i s (s.fSource r >>= f) := by
  rcases s.fSource_cases r with ⟨a, ha, h'⟩ | ⟨-, h'⟩ <;> rw [h']
  · exact h a ha
  · exact allowed_error he

theorem allowed_qSource {i : Instr} {s : State} {r : QIdx} {f : Point → Except CmdError State}
    (he : i.mayRaise .invalidRegister = true)
    (h : ∀ p, s.q[r] = some p → Allowed i s (f p)) : Allowed i s (s.qSource r >>= f) := by
  rcases s.qSource_cases r with ⟨a, ha, h'⟩ | ⟨-, h'⟩ <;> rw [h']
  · exact h a ha
  · exact allowed_error he

theorem allowed_literal {i : Instr} {s : State} {imm : BitVec 16}
    {f : U256 → Except CmdError State} (he : i.mayRaise .representationOverflow = true)
    (h : ∀ v, Allowed i s (f v)) : Allowed i s (literal imm >>= f) := by
  unfold literal
  split
  · exact allowed_error he
  · exact h _

theorem allowed_padd {i : Instr} {s : State} {d : U256} {p1 p2 : Point}
    {f : Point → Except CmdError State} (he : i.mayRaise .divisionByZero = true)
    (h : ∀ p : Point, p.Canonical → Allowed i s (f p)) : Allowed i s (padd d p1 p2 >>= f) := by
  rcases padd_cases d p1 p2 with h' | ⟨p, h', hp⟩ <;> rw [h']
  · exact allowed_error he
  · exact h p hp

theorem allowed_fdiv {i : Instr} {s : State} {a b p : U256} {f : U256 → Except CmdError State}
    (he : i.mayRaise .divisionByZero = true) (he' : i.mayRaise .invalidModulus = true)
    (h : ∀ v : U256, v.toNat < p.toNat → Allowed i s (f v)) :
    Allowed i s (fdiv a b p >>= f) := by
  rcases fdiv_cases a b p with ⟨-, h'⟩ | ⟨-, -, h'⟩ | ⟨hp, -, h'⟩ <;> rw [h']
  · exact allowed_error he'
  · exact allowed_error he
  · exact h _ (fmul_lt _ _ (by omega))

/-- The one lemma about every command: it retires with an allowed result. -/
theorem exec_allowed (i : Instr) (s : State) :
    ∃ r, exec i s = retire i s r ∧ Allowed i s r := by
  cases i with
  | modld ks =>
    refine ⟨_, rfl, ?_⟩
    split
    · exact allowed_error rfl
    · rename_i h
      refine allowed_ok (.loadsModulus _ rfl ?_)
      rw [BitVec.toNat_eq] at h
      simp only [BitVec.toNat_ofNat, Nat.zero_mod] at h
      omega
  | fld fd ks => exact ⟨.ok _, rfl, allowed_ok (.writesF _ _ rfl (rem_lt _))⟩
  | fst kd fs =>
    exact ⟨_, rfl, allowed_fSource rfl fun a _ => allowed_ok (.writesK _ _ rfl)⟩
  | fseti fd imm =>
    exact ⟨_, rfl, allowed_literal rfl fun v => allowed_ok (.writesF _ _ rfl (rem_lt _))⟩
  | pld qd ksx ksy =>
    exact ⟨.ok _, rfl, allowed_ok (.writesQ _ _ rfl fun _ =>
      ⟨rem_lt _ p25519_pos, rem_lt _ p25519_pos⟩)⟩
  | pstx kd qs =>
    exact ⟨_, rfl, allowed_qSource rfl fun p _ => allowed_ok (.writesK _ _ rfl)⟩
  | psty kd qs =>
    exact ⟨_, rfl, allowed_qSource rfl fun p _ => allowed_ok (.writesK _ _ rfl)⟩
  | fadd fd fs1 fs2 =>
    exact ⟨_, rfl, allowed_fSource rfl fun a _ => allowed_fSource rfl fun b _ =>
      allowed_ok (.writesF _ _ rfl (rem_lt _))⟩
  | fsub fd fs1 fs2 =>
    exact ⟨_, rfl, allowed_fSource rfl fun a _ => allowed_fSource rfl fun b _ =>
      allowed_ok (.writesF _ _ rfl (rem_lt _))⟩
  | fneg fd fs1 =>
    exact ⟨_, rfl, allowed_fSource rfl fun a _ => allowed_ok (.writesF _ _ rfl (rem_lt _))⟩
  | fmul fd fs1 fs2 =>
    exact ⟨_, rfl, allowed_fSource rfl fun a _ => allowed_fSource rfl fun b _ =>
      allowed_ok (.writesF _ _ rfl (rem_lt _))⟩
  | fscl fd fs1 ks2 =>
    exact ⟨_, rfl, allowed_fSource rfl fun a _ => allowed_ok (.writesF _ _ rfl (rem_lt _))⟩
  | fscli fd fs1 imm =>
    exact ⟨_, rfl, allowed_fSource rfl fun a _ => allowed_literal rfl fun v =>
      allowed_ok (.writesF _ _ rfl (rem_lt _))⟩
  | fdiv fd fs1 fs2 =>
    exact ⟨_, rfl, allowed_fSource rfl fun a _ => allowed_fSource rfl fun b _ =>
      allowed_fdiv rfl rfl fun v hv => allowed_ok (.writesF _ _ rfl fun _ => hv)⟩
  | fexp fd fs1 ks2 =>
    exact ⟨_, rfl, allowed_fSource rfl fun a _ => allowed_ok (.writesF _ _ rfl (fpow_lt _ _))⟩
  | feq fs1 fs2 =>
    exact ⟨_, rfl, allowed_fSource rfl fun a _ => allowed_fSource rfl fun b _ =>
      allowed_ok (.writesEq _ rfl)⟩
  | pidn qd =>
    exact ⟨.ok _, rfl, allowed_ok (.writesQ _ _ rfl fun _ => by decide)⟩
  | pgen qd => exact ⟨.ok _, rfl, allowed_ok (.writesQ _ _ rfl fun h => h.2.2.2)⟩
  | padd qd qs1 qs2 =>
    exact ⟨_, rfl, allowed_qSource rfl fun p1 _ => allowed_qSource rfl fun p2 _ =>
      allowed_padd rfl fun p hp => allowed_ok (.writesQ _ _ rfl fun _ => hp)⟩
  | pneg qd qs1 =>
    exact ⟨_, rfl, allowed_qSource rfl fun p hp => allowed_ok (.writesQ _ _ rfl fun h =>
      ⟨rem_lt _ p25519_pos, (h.2.2.1 qs1 p hp).2⟩)⟩
  | psub qd qs1 qs2 =>
    exact ⟨_, rfl, allowed_qSource rfl fun p1 _ => allowed_qSource rfl fun p2 _ =>
      allowed_padd rfl fun p hp => allowed_ok (.writesQ _ _ rfl fun _ => hp)⟩
  | peq qs1 qs2 =>
    exact ⟨_, rfl, allowed_qSource rfl fun p1 _ => allowed_qSource rfl fun p2 _ =>
      allowed_ok (.writesEq _ rfl)⟩

/-- All a command can do: complete with one write, or raise an allowed error and change nothing
else. -/
theorem exec_cases (i : Instr) (s : State) :
    (∃ t, exec i s = .next t ∧ Completes i s t) ∨
      ∃ e, i.mayRaise e = true ∧ exec i s = .next (s.raise e (commandWord i)) := by
  obtain ⟨r, hr, hok, herr⟩ := exec_allowed i s
  cases r with
  | ok t => exact .inl ⟨t, hr, hok t rfl⟩
  | error e => exact .inr ⟨e, herr e rfl, hr⟩

end Sys2Proof.Machine
end

