-- ==== Sys2Proof/Laws/Flags.lean ====
section
/-! SUPPORT. The bits of `STATUS` (20_memory.md R58). -/

namespace Sys2Proof.Machine

/-- A bit of a placed bit. -/
theorem getElem_bitAt (w j : Nat) (b : Bool) (i : Nat) (h : i < w) :
    (bitAt w j b)[i] = (decide (i = j) && b) := by
  rw [bitAt, getElem_fieldAt]
  rcases Nat.lt_trichotomy i j with h' | h' | h'
  · simp [h', h'.ne]
  · simp [h']
  · have h1 : ¬ i < j := by omega
    have h2 : i - j ≠ 0 := by omega
    simp [h1, h'.ne', BitVec.getLsbD_ofBool, h2]

end Sys2Proof.Machine
end

