-- ==== Sys2Proof/Laws/PerInstr.lean ====
section
/-! SUPPORT. A statement about every command, one lemma per constructor: its word is a legal command
by the operand classes of 30_encoding.md R82 and R86, which the encoder does not read. -/

namespace Sys2Proof.Laws.Legal

/-- The word of the command passes every check of R86. -/
def Statement (i : Instr) : Prop := wellFormed (commandWord i) = true

/-- For an R-format word the low twelve bits are zero. -/
theorem lowBits_rFormat (op : BitVec 8) (rd rs1 rs2 : Nat) :
    (rFormat op rd rs1 rs2).extractLsb' 0 12 = 0#12 := by
  apply BitVec.eq_of_getLsbD_eq
  intro i hi
  interval_cases i <;> simp [rFormat, getElem_fieldAt]

/-- An R-format command is legal when its opcode has a row and its indices are in class. -/
theorem of_rFormat {i : Instr} {op : BitVec 8} {rd rs1 rs2 : Nat} {c1 c2 c3 : RegClass}
    (he : encode i = rFormat op rd rs1 rs2) (hs : shapeOf op = some ⟨.r, c1, c2, c3⟩)
    (h1 : c1.admits (BitVec.ofNat 4 rd)) (h2 : c2.admits (BitVec.ofNat 4 rs1))
    (h3 : c3.admits (BitVec.ofNat 4 rs2)) : Statement i := by
  have a := opcodeField_rFormat op rd rs1 rs2
  have b := rdField_rFormat op rd rs1 rs2
  have c := rs1Field_rFormat op rd rs1 rs2
  have d := rs2Field_rFormat op rd rs1 rs2
  simp only [opcodeField, rdField, rs1Field, rs2Field] at a b c d
  simp [Statement, wellFormed, upperHalfZero, wordWellFormed, he, a, hs, Shape.fieldsInClass, b, c,
    d, h1, h2, h3, Shape.lowBitsZero, lowBits_rFormat]

/-- An I-format command is legal when its opcode has a row and its indices are in class. -/
theorem of_iFormat {i : Instr} {op : BitVec 8} {rd rs1 : Nat} {imm : BitVec 16}
    {c1 c2 c3 : RegClass} (he : encode i = iFormat op rd rs1 imm)
    (hs : shapeOf op = some ⟨.i, c1, c2, c3⟩) (h1 : c1.admits (BitVec.ofNat 4 rd))
    (h2 : c2.admits (BitVec.ofNat 4 rs1)) : Statement i := by
  have a := opcodeField_iFormat op rd rs1 imm
  have b := rdField_iFormat op rd rs1 imm
  have c := rs1Field_iFormat op rd rs1 imm
  simp only [opcodeField, rdField, rs1Field] at a b c
  simp [Statement, wellFormed, upperHalfZero, wordWellFormed, he, a, hs, Shape.fieldsInClass, b, c,
    h1, h2, Shape.lowBitsZero]

theorem k_admits (i : KIdx) : RegClass.k.admits (BitVec.ofNat 4 i) = true := by
  revert i; decide

theorem f_admits (i : FIdx) : RegClass.f.admits (BitVec.ofNat 4 i) = true := by
  revert i; decide

theorem q_admits (i : QIdx) : RegClass.q.admits (BitVec.ofNat 4 i) = true := by
  revert i; decide

theorem unused_admits : RegClass.unused.admits (BitVec.ofNat 4 0) = true := by decide

theorem modld (ks : KIdx) : Statement (.modld ks) :=
  of_rFormat rfl rfl unused_admits (k_admits ks) unused_admits

theorem fld (fd : FIdx) (ks : KIdx) : Statement (.fld fd ks) :=
  of_rFormat rfl rfl (f_admits fd) (k_admits ks) unused_admits

theorem fst (kd : KIdx) (fs : FIdx) : Statement (.fst kd fs) :=
  of_rFormat rfl rfl (k_admits kd) (f_admits fs) unused_admits

theorem fseti (fd : FIdx) (imm : BitVec 16) : Statement (.fseti fd imm) :=
  of_iFormat rfl rfl (f_admits fd) unused_admits

theorem pld (qd : QIdx) (ksx ksy : KIdx) : Statement (.pld qd ksx ksy) :=
  of_rFormat rfl rfl (q_admits qd) (k_admits ksx) (k_admits ksy)

theorem pstx (kd : KIdx) (qs : QIdx) : Statement (.pstx kd qs) :=
  of_rFormat rfl rfl (k_admits kd) (q_admits qs) unused_admits

theorem psty (kd : KIdx) (qs : QIdx) : Statement (.psty kd qs) :=
  of_rFormat rfl rfl (k_admits kd) (q_admits qs) unused_admits

theorem fadd (fd fs1 fs2 : FIdx) : Statement (.fadd fd fs1 fs2) :=
  of_rFormat rfl rfl (f_admits fd) (f_admits fs1) (f_admits fs2)

theorem fsub (fd fs1 fs2 : FIdx) : Statement (.fsub fd fs1 fs2) :=
  of_rFormat rfl rfl (f_admits fd) (f_admits fs1) (f_admits fs2)

theorem fneg (fd fs1 : FIdx) : Statement (.fneg fd fs1) :=
  of_rFormat rfl rfl (f_admits fd) (f_admits fs1) unused_admits

theorem fmul (fd fs1 fs2 : FIdx) : Statement (.fmul fd fs1 fs2) :=
  of_rFormat rfl rfl (f_admits fd) (f_admits fs1) (f_admits fs2)

theorem fscl (fd fs1 : FIdx) (ks2 : KIdx) : Statement (.fscl fd fs1 ks2) :=
  of_rFormat rfl rfl (f_admits fd) (f_admits fs1) (k_admits ks2)

theorem fscli (fd fs1 : FIdx) (imm : BitVec 16) : Statement (.fscli fd fs1 imm) :=
  of_iFormat rfl rfl (f_admits fd) (f_admits fs1)

theorem fdiv (fd fs1 fs2 : FIdx) : Statement (.fdiv fd fs1 fs2) :=
  of_rFormat rfl rfl (f_admits fd) (f_admits fs1) (f_admits fs2)

theorem fexp (fd fs1 : FIdx) (ks2 : KIdx) : Statement (.fexp fd fs1 ks2) :=
  of_rFormat rfl rfl (f_admits fd) (f_admits fs1) (k_admits ks2)

theorem feq (fs1 fs2 : FIdx) : Statement (.feq fs1 fs2) :=
  of_rFormat rfl rfl unused_admits (f_admits fs1) (f_admits fs2)

theorem pidn (qd : QIdx) : Statement (.pidn qd) :=
  of_rFormat rfl rfl (q_admits qd) unused_admits unused_admits

theorem pgen (qd : QIdx) : Statement (.pgen qd) :=
  of_rFormat rfl rfl (q_admits qd) unused_admits unused_admits

theorem padd (qd qs1 qs2 : QIdx) : Statement (.padd qd qs1 qs2) :=
  of_rFormat rfl rfl (q_admits qd) (q_admits qs1) (q_admits qs2)

theorem pneg (qd qs1 : QIdx) : Statement (.pneg qd qs1) :=
  of_rFormat rfl rfl (q_admits qd) (q_admits qs1) unused_admits

theorem psub (qd qs1 qs2 : QIdx) : Statement (.psub qd qs1 qs2) :=
  of_rFormat rfl rfl (q_admits qd) (q_admits qs1) (q_admits qs2)

theorem peq (qs1 qs2 : QIdx) : Statement (.peq qs1 qs2) :=
  of_rFormat rfl rfl unused_admits (q_admits qs1) (q_admits qs2)

end Sys2Proof.Laws.Legal
end

