-- ==== Sys2Proof/Laws/Port.lean ====
section
/-! SUPPORT. What a step does, by the host event it serves. -/

namespace Sys2Proof.Machine

/-! ### The address map -/

@[simp] theorem kIndexOf_addrK (i : KIdx) (j : Fin 4) : kIndexOf (addrK i j) = i := by
  revert i j; decide

@[simp] theorem limbIndexOf_addrK (i : KIdx) (j : Fin 4) : limbIndexOf (addrK i j) = j := by
  revert i j; decide

theorem addrK_lt (i : KIdx) (j : Fin 4) : (addrK i j).toNat < 0x10 := by
  revert i j; decide

@[simp] theorem limbIndexOf_addrMod (j : Fin 4) : limbIndexOf (addrMod j) = j := by
  revert j; decide

/-- Every word address is a K limb, a `MOD` limb, one of the four named registers, or reserved. -/
theorem address_cases (a : BitVec 5) :
    (∃ i j, a = addrK i j) ∨ (∃ j, a = addrMod j) ∨ a = addrCmd ∨ a = addrStatus ∨
      a = addrEcmd ∨ a = addrErrclr ∨ 0x18 ≤ a.toNat := by
  revert a; decide

/-! ### Steps -/

theorem step_idle {s : State} (h : s.pending = []) : step s = .next { s with rsp := none } := by
  simp only [step, takeEvent, h]

theorem step_serves {s : State} {ev : HostEvent} {rest : List HostEvent}
    (h : s.pending = ev :: rest) :
    step s = serve ev { s with pending := rest, rsp := none } := by
  simp only [step, takeEvent, h]

theorem serve_write_k (s : State) (i : KIdx) (j : Fin 4) (v : U64) :
    serve (.write (addrK i j) v) s = .next (s.setKLimb i j v) := by
  simp [serve, hostWrite, addrK_lt]

theorem serve_write_cmd (s : State) (w : U64) :
    serve (.write addrCmd w) s = cmdWrite w s := by
  simp [serve, hostWrite, addrCmd]

theorem serve_write_errclr (s : State) (v : U64) :
    serve (.write addrErrclr v) s = .next s.clearError := by
  simp [serve, hostWrite, addrCmd, addrErrclr]

theorem cmdWrite_latched {s : State} (h : s.err ≠ none) (w : U64) :
    cmdWrite w s = .next s := by
  simp [cmdWrite, Option.isSome_iff_ne_none.mpr h]

theorem cmdWrite_open {s : State} (h : s.err = none) (w : U64) :
    cmdWrite w s = execute w s := by
  simp [cmdWrite, h]

theorem execute_legal {w : U64} {i : Instr} (h : decode w = .ok i) (s : State) :
    execute w s = exec i s := by
  simp only [execute, h]

theorem execute_illegal {w : U64} {r : Reject} (h : decode w = .error r) (s : State) :
    execute w s = .next (s.raise .illegalCommand w) := by
  simp only [execute, h]

/-- All a step can do, by the host event it serves. -/
inductive StepCase (s : State) : State → Prop where
  | idle (h : s.pending = []) : StepCase s { s with rsp := none }
  | read (rest : List HostEvent) (a : BitVec 5) (h : s.pending = .read a :: rest) :
      StepCase s { s with pending := rest, rsp := some (hostRead s a) }
  | writeK (rest : List HostEvent) (i : KIdx) (j : Fin 4) (v : U64)
      (h : s.pending = .write (addrK i j) v :: rest) :
      StepCase s (State.setKLimb { s with pending := rest, rsp := none } i j v)
  | clearError (rest : List HostEvent) (v : U64) (h : s.pending = .write addrErrclr v :: rest) :
      StepCase s (State.clearError { s with pending := rest, rsp := none })
  | ignored (rest : List HostEvent) (a : BitVec 5) (v : U64) (h : s.pending = .write a v :: rest)
      (ha : a ≠ addrCmd ∨ s.err ≠ none) : StepCase s { s with pending := rest, rsp := none }
  | reset (rest : List HostEvent)
      (h : s.pending = .reset :: rest ∨ ∃ w, s.pending = .resetDuringCommand w :: rest) :
      StepCase s (State.afterReset { s with pending := rest, rsp := none })
  | illegal (rest : List HostEvent) (w : U64) (r : Reject)
      (h : s.pending = .write addrCmd w :: rest) (he : s.err = none) (hd : decode w = .error r) :
      StepCase s (State.raise { s with pending := rest, rsp := none } .illegalCommand w)
  | command (rest : List HostEvent) (w : U64) (i : Instr) (t : State)
      (h : s.pending = .write addrCmd w :: rest) (he : s.err = none) (hd : decode w = .ok i)
      (hx : exec i { s with pending := rest, rsp := none } = .next t) : StepCase s t

/-- A write to `CMD` falls under one of three cases: discarded, illegal, or a command. -/
theorem step_write_cmd {s t : State} {w : U64} {rest : List HostEvent}
    (hp : s.pending = .write addrCmd w :: rest) (h : step s = .next t) : StepCase s t := by
  rw [step_serves hp, serve_write_cmd] at h
  by_cases he : s.err = none
  · rw [cmdWrite_open (by simpa using he)] at h
    cases hd : decode w with
    | ok i =>
      rw [execute_legal hd] at h
      exact .command rest w i t hp he hd h
    | error r =>
      rw [execute_illegal hd] at h
      cases h
      exact .illegal rest w r hp he hd
  · rw [cmdWrite_latched (by simpa using he)] at h
    cases h
    exact .ignored rest addrCmd w hp (.inr he)

/-- A write to another address changes a K limb, clears the latch, or is ignored. -/
theorem step_write_other {s t : State} {a : BitVec 5} {v : U64} {rest : List HostEvent}
    (hp : s.pending = .write a v :: rest) (hc : a ≠ addrCmd) (h : step s = .next t) :
    StepCase s t := by
  by_cases hk : ∃ i j, a = addrK i j
  · obtain ⟨i, j, rfl⟩ := hk
    rw [step_serves hp, serve_write_k] at h
    cases h
    exact .writeK rest i j v hp
  by_cases ha : a = addrErrclr
  · subst ha
    rw [step_serves hp, serve_write_errclr] at h
    cases h
    exact .clearError rest v hp
  · have hlow : ¬ a.toNat < 0x10 := by
      clear hp
      revert a; decide
    rw [step_serves hp] at h
    simp only [serve, hostWrite, hlow, hc, ha, if_false] at h
    cases h
    exact .ignored rest a v hp (.inl hc)

/-- The one lemma about every step: a next state is one of the eight cases. -/
theorem step_cases {s t : State} (h : step s = .next t) : StepCase s t := by
  cases hp : s.pending with
  | nil =>
    rw [step_idle hp] at h
    cases h
    exact .idle hp
  | cons ev rest =>
    cases ev with
    | read a =>
      rw [step_serves hp] at h
      cases h
      exact .read rest a hp
    | write a v =>
      by_cases hc : a = addrCmd
      · subst hc
        exact step_write_cmd hp h
      · exact step_write_other hp hc h
    | reset =>
      rw [step_serves hp] at h
      cases h
      exact .reset rest (.inl hp)
    | resetDuringCommand w =>
      rw [step_serves hp] at h
      cases h
      exact .reset rest (.inr ⟨w, hp⟩)

end Sys2Proof.Machine
end

