-- ==== Sys2Proof/Laws/Prime.lean ====
section
/-! SUPPORT. `P25519` = 2^255 - 19 is prime, by a tree of Lucas certificates. The hardware tests no
primality (00_scope.md R6); the curve statement needs it. -/

namespace Sys2Proof.Prime

/-- `a ^ e % m` for an exponent below `2 ^ n`, by squaring, for the kernel to evaluate. -/
def powMod (a m : Nat) : (n : Nat) → (e : Nat) → Nat
  | 0, _ => 1 % m
  | n + 1, e =>
    let half := powMod a m n (e / 2)
    if e % 2 = 0 then half * half % m else half * half % m * a % m

theorem powMod_eq (a m : Nat) : ∀ n e : Nat, e < 2 ^ n → powMod a m n e = a ^ e % m
  | 0, e, h => by
    obtain rfl : e = 0 := by omega
    simp [powMod]
  | n + 1, e, h => by
    have ih := powMod_eq a m n (e / 2) (by omega)
    have he := Nat.div_add_mod e 2
    rcases Nat.mod_two_eq_zero_or_one e with h0 | h1
    · simp only [powMod, h0, if_true, ih]
      rw [← Nat.mul_mod, ← pow_add]
      congr 2
      omega
    · simp only [powMod, h1, one_ne_zero, if_false, ih]
      rw [← Nat.mul_mod, ← pow_add, Nat.mod_mul_mod, ← pow_succ]
      congr 2
      omega

/-- The numeric part of a Lucas certificate: base `a`, and the prime factors of `p - 1`. -/
def certifies (p a : Nat) (factors : List Nat) : Bool :=
  1 < p && p < 2 ^ 256 && factors.prod == p - 1 && powMod a p 256 (p - 1) == 1 &&
    factors.all fun q => powMod a p 256 ((p - 1) / q) != 1

theorem of_certificate {p a : Nat} {factors : List Nat} (hc : certifies p a factors = true)
    (hf : ∀ q ∈ factors, q.Prime) : p.Prime := by
  simp only [certifies, Bool.and_eq_true, decide_eq_true_eq, beq_iff_eq, List.all_eq_true,
    bne_iff_ne] at hc
  obtain ⟨⟨⟨⟨hp, hlt⟩, hprod⟩, hone⟩, hne⟩ := hc
  have cast : ∀ e : Nat, (a : ZMod p) ^ e = 1 ↔ a ^ e % p = 1 := by
    intro e
    rw [← Nat.cast_pow, ← Nat.cast_one, ZMod.natCast_eq_natCast_iff', Nat.mod_eq_of_lt hp]
  refine lucas_primality p a ((cast _).mpr ?_) fun q hq hd => ?_
  · exact (powMod_eq _ _ _ _ (by omega)).symm.trans hone
  · rw [← hprod] at hd
    obtain ⟨r, hr, hqr⟩ := (hq.prime.dvd_prod_iff).mp hd
    obtain rfl := (Nat.prime_dvd_prime_iff_eq hq (hf r hr)).mp hqr
    rw [Ne, cast, ← powMod_eq a p 256 _ (lt_of_le_of_lt (Nat.div_le_self _ _) (by omega))]
    exact hne q hr

theorem prime_8574133 : Nat.Prime 8574133 :=
  of_certificate (a := 2) (factors := [2, 2, 3, 7, 103, 991]) (by decide +kernel)
    (by simp; norm_num)

theorem prime_1923133 : Nat.Prime 1923133 :=
  of_certificate (a := 2) (factors := [2, 2, 3, 43, 3727]) (by decide +kernel) (by simp; norm_num)

theorem prime_2773320623 : Nat.Prime 2773320623 :=
  of_certificate (a := 5) (factors := [2, 2437, 569003]) (by decide +kernel) (by simp; norm_num)

theorem prime_72106336199 : Nat.Prime 72106336199 :=
  of_certificate (a := 7) (factors := [2, 13, 2773320623]) (by decide +kernel)
    (by simp [prime_2773320623]; norm_num)

theorem prime_1919519569386763 : Nat.Prime 1919519569386763 :=
  of_certificate (a := 2) (factors := [2, 3, 7, 19, 47, 47, 127, 8574133]) (by decide +kernel)
    (by simp [prime_8574133]; norm_num)

theorem prime_31757755568855353 : Nat.Prime 31757755568855353 :=
  of_certificate (a := 10) (factors := [2, 2, 2, 3, 31, 107, 223, 4153, 430751])
    (by decide +kernel) (by simp; norm_num)

theorem prime_75445702479781427272750846543864801 :
    Nat.Prime 75445702479781427272750846543864801 :=
  of_certificate (a := 7)
    (factors := [2, 2, 2, 2, 2, 3, 3, 5, 5, 75707, 72106336199, 1919519569386763])
    (by decide +kernel) (by simp [prime_72106336199, prime_1919519569386763]; norm_num)

theorem prime_cofactor :
    Nat.Prime 74058212732561358302231226437062788676166966415465897661863160754340907 :=
  of_certificate (a := 2)
    (factors := [2, 3, 353, 57467, 132049, 1923133, 31757755568855353,
      75445702479781427272750846543864801])
    (by decide +kernel)
    (by
      simp [prime_1923133, prime_31757755568855353, prime_75445702479781427272750846543864801]
      norm_num)

/-- `P25519` is prime. -/
theorem p25519_prime : p25519.toNat.Prime :=
  of_certificate (a := 2)
    (factors := [2, 2, 3, 65147,
      74058212732561358302231226437062788676166966415465897661863160754340907])
    (by decide +kernel) (by simp [prime_cofactor]; norm_num)

end Sys2Proof.Prime
end

