-- ==== Sys2Proof/Tests/Slice0.lean ====
section
/-! SUPPORT. Tests on fixed values, and a witness for the hypotheses of every statement. Words and
expected results are taken from spec/95_test_vectors.md (the V- and S- names) and from the examples of
the rules named, never from the model. -/

namespace Sys2Proof.Tests

open Sys2Proof.Machine

/- One thread at a time: a thread per kernel evaluation runs out of memory. -/
set_option Elab.async false

/-! ### Helpers -/

/-- The state after a command, none where it has no next state. -/
def after (i : Instr) (s : State) : Option State :=
  match exec i s with
  | .next t => some t
  | .fault _ => none
  | .refused _ => none

/-- The state after one host event, none where it has no next state. -/
def serve1 (ev : HostEvent) (s : State) : Option State :=
  match step { s with pending := [ev] } with
  | .next t => some t
  | .fault _ => none
  | .refused _ => none

/-- The state after the reset state with one host event waiting, for the witnesses. -/
def waiting (ev : HostEvent) (s : State := State.reset) : State := { s with pending := [ev] }

/-- The reset state in the error latch (V-X1). -/
def latched : State := State.reset.raise .invalidRegister 0x20100000#64

/-- A field state: modulus m, F0 = a, F1 = b, K0 = e. -/
def field (m a b : U256) (e : U256 := 0#256) : State :=
  (((State.reset.loadModulus m).setF 0 a).setF 1 b).setK 0 e

/-- A point state: Q0 = p1, Q1 = p2. -/
def points (p1 p2 : Point) : State := (State.reset.setQ 0 p1).setQ 1 p2

def genX : U256 := 0x216936d3cd6e53fec0a4e231fdd6dc5c692cc7609525a7b2c9562d608f25d51a#256
def genY : U256 := 0x6666666666666666666666666666666666666666666666666666666666666658#256
/-- The generator G (V-P2). -/
def G : Point := ⟨genX, genY⟩
/-- 2G (V-P3). -/
def G2 : Point :=
  ⟨0x36ab384c9f5a046c3d043b7d1833e7ac080d8e4515d7a45f83c5a14e2843ce0e#256,
    0x2260cdf3092329c21da25ee8c9a21f5697390f51643851560e5f46ae6af8a3c9#256⟩
/-- 3G (V-P4). -/
def G3 : Point :=
  ⟨0x67ae9c4a22928f491ff4ae743edac83a6343981981624886ac62485fd3f8e25c#256,
    0x1267b1d177ee69aba126a18e60269ef79f16ec176724030402c3684878f5b4d4#256⟩
/-- The inverse of 14 (V-F18). -/
def inv14 : U256 := 0x524924924924924924924924924924924924924924924924924924924924923d#256
/-- 2^256 - 189. -/
def big : U256 := 0xffffffffffffffffffffffffffffffffffffffffffffffffffffffffffffff43#256
/-- The y of V-P14, whose cross term with (1, 1) is -1. -/
def yMinus : U256 := 0x3f6f812deb2a31bcd4e9deeb32463099f4a22967bd86abd1da1f0d89323607aa#256
/-- The y of V-P15, whose cross term with (1, 1) is 1. -/
def yPlus : U256 := 0x40907ed214d5ce432b162114cdb9cf660b5dd6984279542e25e0f276cdc9f843#256

/-- The default generator is canonical (V-P2). -/
theorem reset_generator : State.reset.GeneratorCanonical := by decide

/-- Residues below the modulus make a canonical field state. -/
theorem field_canonical {m a b e : U256} (ha : a.toNat < m.toNat) (hb : b.toNat < m.toNat) :
    (field m a b e).Canonical := by
  refine ⟨by simp [field]; omega, ?_, ?_, reset_generator⟩
  · intro i x hx
    fin_cases i <;> simp_all [field, State.setK, State.setF, State.loadModulus]
  · intro i x hx
    fin_cases i <;> simp_all [field, State.setK, State.setF, State.loadModulus, State.reset]

/-- Canonical points make a canonical point state. -/
theorem points_canonical {p1 p2 : Point} (h1 : p1.Canonical) (h2 : p2.Canonical) :
    (points p1 p2).Canonical := by
  refine ⟨p25519_pos, ?_, ?_, reset_generator⟩
  · intro i x hx
    fin_cases i <;> simp_all [points, State.setQ, State.reset]
  · intro i x hx
    fin_cases i <;> simp_all [points, State.setQ, State.reset] <;> assumption
/-! ### Ill-formed words, one or more for each check of R86 and R88 -/

theorem test_wf_legal : wellFormed 0x0000000020312000#64 = true := by decide +kernel

/-- V-E6: bits 63:32. -/
theorem test_wf_upper_half : wellFormed 0x0100000020312000#64 = false ∧
    upperHalfZero 0x0100000020312000#64 = false := by decide +kernel

/-- V-E2, V-E9: the opcode. -/
theorem test_wf_opcode : wellFormed 0#64 = false ∧ wellFormed 0x17000000#64 = false ∧
    wellFormed 0xff000000#64 = false ∧ opcodeAssigned 0x17000000#32 = false := by decide +kernel

/-- V-E3: rd = 8 is no F index; V-E7: rd = 4 is no Q index. -/
theorem test_wf_rd_class :
    wellFormed 0x20812000#64 = false ∧ wellFormed 0x14401000#64 = false := by decide +kernel

/-- V-E10: rs1 = 4 is no K index; V-E13: rs2 = 4 is no K index. -/
theorem test_wf_source_class :
    wellFormed 0x10040000#64 = false ∧ wellFormed 0x24014000#64 = false := by decide +kernel

/-- V-E5, V-E11: an unused rd; V-E8: an unused rs1; V-E12: an unused rs2. -/
theorem test_wf_unused : wellFormed 0x28112000#64 = false ∧ wellFormed 0x10100000#64 = false ∧
    wellFormed 0x13010005#64 = false ∧ wellFormed 0x30201000#64 = false := by decide +kernel

/-- V-E4: bits 11:0 of an R-format word. -/
theorem test_wf_low_bits : wellFormed 0x20312001#64 = false ∧
    (Shape.mk .r .f .f .f).lowBitsZero 0x20312001#32 = false := by decide +kernel

/-! ### Decoding, the words of the rules' examples (R120 to R126, R149 to R157, R172 to R180) -/

theorem test_decode_modld : decode 0x10000000#64 = .ok (.modld 0) := by decide +kernel
theorem test_decode_fld : decode 0x11010000#64 = .ok (.fld 0 1) := by decide +kernel
theorem test_decode_fst : decode 0x12200000#64 = .ok (.fst 2 0) := by decide +kernel
theorem test_decode_fseti : decode 0x1310000e#64 = .ok (.fseti 1 14#16) := by decide +kernel
theorem test_decode_pld : decode 0x14001000#64 = .ok (.pld 0 0 1) := by decide +kernel
theorem test_decode_pstx : decode 0x15200000#64 = .ok (.pstx 2 0) := by decide +kernel
theorem test_decode_psty : decode 0x16300000#64 = .ok (.psty 3 0) := by decide +kernel
theorem test_decode_fadd : decode 0x20312000#64 = .ok (.fadd 3 1 2) := by decide +kernel
theorem test_decode_fsub : decode 0x21012000#64 = .ok (.fsub 0 1 2) := by decide +kernel
theorem test_decode_fneg : decode 0x22300000#64 = .ok (.fneg 3 0) := by decide +kernel
theorem test_decode_fmul : decode 0x23211000#64 = .ok (.fmul 2 1 1) := by decide +kernel
theorem test_decode_fscl : decode 0x24010000#64 = .ok (.fscl 0 1 0) := by decide +kernel
theorem test_decode_fscli : decode 0x2521ffff#64 = .ok (.fscli 2 1 0xffff#16) := by decide +kernel
theorem test_decode_fdiv : decode 0x26201000#64 = .ok (.fdiv 2 0 1) := by decide +kernel
theorem test_decode_fexp : decode 0x27010000#64 = .ok (.fexp 0 1 0) := by decide +kernel
theorem test_decode_feq : decode 0x28012000#64 = .ok (.feq 1 2) := by decide +kernel
theorem test_decode_pidn : decode 0x30200000#64 = .ok (.pidn 2) := by decide +kernel
theorem test_decode_pgen : decode 0x31000000#64 = .ok (.pgen 0) := by decide +kernel
theorem test_decode_padd : decode 0x32201000#64 = .ok (.padd 2 0 1) := by decide +kernel
theorem test_decode_pneg : decode 0x33100000#64 = .ok (.pneg 1 0) := by decide +kernel
theorem test_decode_psub : decode 0x34210000#64 = .ok (.psub 2 1 0) := by decide +kernel
theorem test_decode_peq : decode 0x35012000#64 = .ok (.peq 1 2) := by decide +kernel

/-- The probe functions: an operand of every class at its highest index is kept. -/
theorem test_decodeTableWord : decodeTableWord 32 0x27773000 = some (.fexp 7 7 3) ∧
    decodeTableWord 32 0x27774000 = none := by decide +kernel

/-- The probe runs the placed command in the very next step. -/
theorem test_withFetchWord : (match step (State.reset.withFetchWord 32 0x30200000) with
    | .next t => t.q[2]
    | .fault _ => none
    | .refused _ => none) = some ⟨0#256, 1#256⟩ := by decide +kernel

/-! ### One step of each command -/

/-- V-M1. -/
theorem test_modld_loads :
    (after (.modld 0) ((State.reset.setF 0 7#256).setK 0 2#256)).map (fun t => (t.modulus, t.fv)) =
      some (2#256, 0#8) := by decide +kernel

/-- V-M2. -/
theorem test_modld_zero :
    (after (.modld 0) State.reset).map (fun t => (t.statusWord, t.modulus.toNat)) =
      some (0x10#64, 2 ^ 255 - 19) := by decide +kernel

/-- V-M4. -/
theorem test_fld_reduces :
    (after (.fld 0 1) (State.reset.setK 1 (BitVec.ofNat 256 (2 ^ 255 - 14)))).map (fun t => t.f[0]) =
      some (some 5#256) := by decide +kernel

/-- V-M5. -/
theorem test_fld_all_ones :
    (after (.fld 0 0) (State.reset.setK 0 (BitVec.ofNat 256 (2 ^ 256 - 1)))).map (fun t => t.f[0]) =
      some (some 37#256) := by decide +kernel

/-- V-M8. -/
theorem test_fst_copies :
    (after (.fst 2 0) (State.reset.setF 0 5#256)).map (fun t => t.k[2]) = some 5#256 := by
  decide +kernel

/-- V-M9. -/
theorem test_fst_invalid :
    (after (.fst 0 3) (State.reset.setK 0 9#256)).map (fun t => (t.k[0], t.statusWord, t.ecmd)) =
      some (9#256, 0x50#64, 0x12030000#64) := by decide +kernel

/-- V-M10. -/
theorem test_fseti_reduces :
    (after (.fseti 0 234#16) (State.reset.loadModulus 2#256)).map (fun t => t.f[0]) =
      some (some 0#256) := by decide +kernel

/-- V-E15, V-E16: the least negative and the greatest literal. -/
theorem test_fseti_sign :
    (after (.fseti 0 0x8000#16) State.reset).map (fun t => t.statusWord) = some 0x30#64 ∧
      (after (.fseti 0 0x7fff#16) State.reset).map (fun t => (t.f[0], t.statusWord)) =
        some (some 32767#256, 0x100#64) := by decide +kernel

/-- V-M13. -/
theorem test_pld_reduces :
    (after (.pld 0 0 1) ((State.reset.setK 0 p25519).setK 1 (p25519 + 1#256))).map (fun t => t.q[0]) =
      some (some ⟨0#256, 1#256⟩) := by decide +kernel

/-- V-M14: a pair that is not on the curve. -/
theorem test_pld_off_curve :
    (after (.pld 0 0 0) (State.reset.setK 0 1#256)).map (fun t => t.q[0]) =
      some (some ⟨1#256, 1#256⟩) := by decide +kernel

/-- V-M15. -/
theorem test_pstx_copies :
    (after (.pstx 2 0) (points G ⟨0#256, 1#256⟩)).map (fun t => t.k[2]) = some genX := by
  decide +kernel

/-- V-M16. -/
theorem test_pstx_invalid :
    (after (.pstx 0 1) State.reset).map (fun t => (t.statusWord, t.ecmd)) =
      some (0x50#64, 0x15010000#64) := by decide +kernel

/-- V-M15. -/
theorem test_psty_copies :
    (after (.psty 3 0) (points ⟨0#256, 1#256⟩ G)).map (fun t => t.k[3]) = some 1#256 := by
  decide +kernel

/-- V-F2: the sum is reduced. -/
theorem test_fadd_reduces :
    (after (.fadd 3 0 1) (field p25519 (p25519 - 1#256) (p25519 - 1#256))).map (fun t => t.f[3]) =
      some (some (p25519 - 2#256)) := by decide +kernel

/-- V-F4: the sum is exact above 2^256. -/
theorem test_fadd_exact :
    (after (.fadd 1 0 0) (field big (big - 1#256) 0#256)).map (fun t => t.f[1]) =
      some (some 0xffffffffffffffffffffffffffffffffffffffffffffffffffffffffffffff41#256) := by
  decide +kernel

/-- V-F5. -/
theorem test_fsub_below_zero :
    (after (.fsub 2 0 1) (field p25519 0#256 1#256)).map (fun t => t.f[2]) =
      some (some 0x7fffffffffffffffffffffffffffffffffffffffffffffffffffffffffffffec#256) := by
  decide +kernel

/-- V-F24: the order of the operands. -/
theorem test_fsub_order :
    (after (.fsub 4 0 1) (field 7#256 3#256 5#256)).map (fun t => t.f[4]) = some (some 5#256) := by
  decide +kernel

/-- V-F7. -/
theorem test_fneg :
    (after (.fneg 0 1) (field p25519 0#256 14#256)).map (fun t => t.f[0]) =
      some (some 0x7fffffffffffffffffffffffffffffffffffffffffffffffffffffffffffffdf#256) := by
  decide +kernel

/-- V-F8. -/
theorem test_fneg_zero :
    (after (.fneg 0 1) (field p25519 5#256 0#256)).map (fun t => t.f[0]) = some (some 0#256) := by
  decide +kernel

/-- V-F9. -/
theorem test_fmul_wide :
    (after (.fmul 2 0 0) (field big (big - 1#256) 0#256)).map (fun t => t.f[2]) =
      some (some 1#256) := by decide +kernel

/-- V-F10. -/
theorem test_fmul :
    (after (.fmul 2 1 1) (field p25519 0#256 14#256)).map (fun t => t.f[2]) =
      some (some 196#256) := by decide +kernel

/-- V-F12: a multiplier above the modulus. -/
theorem test_fscl_above_modulus :
    (after (.fscl 0 1 0) (field p25519 0#256 5#256 (BitVec.ofNat 256 (2 ^ 255 - 16)))).map
      (fun t => t.f[0]) = some (some 15#256) := by decide +kernel

/-- V-F13. -/
theorem test_fscl_all_ones :
    (after (.fscl 0 1 0) (field p25519 0#256 5#256 (BitVec.ofNat 256 (2 ^ 256 - 1)))).map
      (fun t => t.f[0]) = some (some 185#256) := by decide +kernel

/-- V-F15. -/
theorem test_fscli :
    (after (.fscli 0 1 14#16) (field p25519 0#256 14#256)).map (fun t => t.f[0]) =
      some (some 196#256) := by decide +kernel

/-- V-F16, V-F17: the validity of the source before the sign of the literal. -/
theorem test_fscli_errors :
    (after (.fscli 2 1 0xffff#16) (State.reset.setF 1 3#256)).map (fun t => t.statusWord) =
        some 0x230#64 ∧
      (after (.fscli 2 1 0xffff#16) State.reset).map (fun t => t.statusWord) = some 0x50#64 := by
  decide +kernel

/-- V-F18. -/
theorem test_fdiv_inverse :
    (after (.fdiv 2 0 1) (field p25519 1#256 14#256)).map (fun t => t.f[2]) = some (some inv14) := by
  decide +kernel

/-- V-F22, V-F20, V-F25: a modulus of 2 before a divisor of 0, a divisor of 0, a composite modulus. -/
theorem test_fdiv_corners :
    (after (.fdiv 2 1 0) (field 2#256 0#256 1#256)).map (fun t => (t.err, t.f[2])) =
        some (some .invalidModulus, none) ∧
      (after (.fdiv 2 1 0) (field p25519 0#256 5#256)).map (fun t => (t.err, t.f[2])) =
        some (some .divisionByZero, none) ∧
      (after (.fdiv 2 0 1) (field 9#256 1#256 2#256)).map (fun t => t.f[2]) =
        some (some 2#256) := by decide +kernel

/-- V-F31. -/
theorem test_fexp_all_ones :
    (after (.fexp 0 1 0) (field p25519 0#256 3#256 (BitVec.ofNat 256 (2 ^ 256 - 1)))).map
      (fun t => t.f[0]) = some (some 0x383d9170b85ff80b#256) := by decide +kernel

/-- V-F28, V-F32: the exponent 0, and modulo 1. -/
theorem test_fexp_zero :
    (after (.fexp 0 1 0) (field p25519 5#256 0#256)).map (fun t => t.f[0]) = some (some 1#256) ∧
      (after (.fexp 3 0 1) (field 1#256 0#256 0#256)).map (fun t => t.f[3]) =
        some (some 0#256) := by decide +kernel

/-- V-F33, V-F34. -/
theorem test_feq :
    (after (.feq 0 1) (field p25519 14#256 14#256)).map (fun t => t.eqFlag) = some true ∧
      (after (.feq 0 1) ((field p25519 14#256 13#256).setEq true)).map (fun t => t.eqFlag) =
        some false := by decide +kernel

/-- V-F35. -/
theorem test_feq_invalid :
    (after (.feq 1 2) ((field p25519 5#256 14#256).setEq true)).map (fun t => (t.err, t.eqFlag)) =
      some (some .invalidRegister, true) := by decide +kernel

/-- V-P1. -/
theorem test_pidn :
    (after (.pidn 2) State.reset).map (fun t => t.q[2]) = some (some ⟨0#256, 1#256⟩) := by
  decide +kernel

/-- V-P2 [GK], and V-P19: `MOD` plays no part. -/
theorem test_pgen :
    (after (.pgen 0) (State.reset.loadModulus 2#256)).map (fun t => t.q[0]) = some (some G) := by
  decide +kernel

/-- V-P4 [GK], and V-P13 [GK]: neither point on the curve. -/
theorem test_padd :
    (after (.padd 2 1 0) (points G G2)).map (fun t => t.q[2]) = some (some G3) ∧
      (after (.padd 2 0 1) (points ⟨1#256, 1#256⟩ ⟨2#256, 3#256⟩)).map (fun t => t.q[2]) =
        some (some
          ⟨0x483cf67f68f5ab64af1c9ac38b363298d76c79729c9cb3f92016c90b7c393658#256,
            0x742bbcb73b06261d6b5f9acf20f4ef93ffb896d7fcdd3e967ba570200cd9d1e5#256⟩) := by
  decide +kernel

/-- V-P8 [GK]. -/
theorem test_pneg :
    (after (.pneg 1 0) (points G G2)).map (fun t => t.q[1]) =
      some (some
        ⟨0x5e96c92c3291ac013f5b1dce022923a396d3389f6ada584d36a9d29f70da2ad3#256, genY⟩) := by
  decide +kernel

/-- V-P9. -/
theorem test_pneg_identity :
    (after (.pneg 1 0) (points ⟨0#256, 1#256⟩ G)).map (fun t => t.q[1]) =
      some (some ⟨0#256, 1#256⟩) := by decide +kernel

/-- V-P10 [GK], V-P11 [GK]. -/
theorem test_psub :
    (after (.psub 2 0 0) (points G G2)).map (fun t => t.q[2]) = some (some ⟨0#256, 1#256⟩) ∧
      (after (.psub 2 1 0) (points G G2)).map (fun t => t.q[2]) = some (some G) := by
  decide +kernel

/-- V-P14 [GK], with its `STATUS` and `ECMD`, and V-P15 [GK]. -/
theorem test_padd_zero_denominator :
    (after (.padd 2 0 1) (points ⟨1#256, 1#256⟩ ⟨1#256, yMinus⟩)).map
        (fun t => (t.statusWord, t.ecmd)) = some (0x30020#64, 0x32201000#64) ∧
      (after (.padd 2 0 1) (points ⟨1#256, 1#256⟩ ⟨1#256, yPlus⟩)).map (fun t => t.err) =
        some (some .divisionByZero) := by decide +kernel

/-- V-P17, V-P18. -/
theorem test_peq :
    (after (.peq 0 1) (points ⟨0#256, 1#256⟩ ⟨0#256, 1#256⟩)).map (fun t => t.eqFlag) = some true ∧
      (after (.peq 0 1) ((points G G2).setEq true)).map (fun t => t.eqFlag) = some false := by
  decide +kernel

/-- Program 3, line 4: two pairs that differ in one coordinate only (R180). -/
theorem test_peq_one_coordinate :
    (after (.peq 0 1) ((points ⟨1#256, 2#256⟩ ⟨1#256, 3#256⟩).setEq true)).map (fun t => t.eqFlag) =
      some false := by decide +kernel

/-! ### The host port and the latch -/

/-- V-X1, V-X2. -/
theorem test_latch :
    (serve1 (.write addrCmd 0x20100000#64) State.reset).map (fun t => (t.statusWord, t.ecmd)) =
        some (0x50#64, 0x20100000#64) ∧
      (serve1 (.write addrCmd 0x13000001#64) latched).map (fun t => (t.statusWord, t.ecmd, t.f[0])) =
        some (0x50#64, 0x20100000#64, none) := by decide +kernel

/-- V-X3, V-X4, V-X6. -/
theorem test_latch_other :
    (serve1 (.write 0x00#5 0x1234#64) latched).map (fun t => hostRead t 0x00#5) = some 0x1234#64 ∧
      (serve1 (.write 0x17#5 0#64) latched).map (fun t => (t.statusWord, t.ecmd)) =
        some (0#64, 0#64) ∧
      (serve1 (.write 0x14#5 0#64) latched).map (fun t => t.err) =
        some (some .invalidRegister) := by decide +kernel

/-- V-E2, V-E6: the whole 64-bit word is recorded. -/
theorem test_illegal :
    (serve1 (.write addrCmd 0#64) State.reset).map (fun t => (t.statusWord, t.ecmd)) =
        some (0x40#64, 0#64) ∧
      (serve1 (.write addrCmd 0x0100000020312000#64) State.reset).map (fun t => t.ecmd) =
        some 0x0100000020312000#64 := by decide +kernel

/-- V-H1. -/
theorem test_read_mod :
    [0x10#5, 0x11#5, 0x12#5, 0x13#5].map (hostRead State.reset) =
      [0xffffffffffffffed#64, 0xffffffffffffffff#64, 0xffffffffffffffff#64,
        0x7fffffffffffffff#64] := by decide +kernel

/-- V-H2: writes to read-only and reserved addresses. -/
theorem test_write_ignored :
    [0x10#5, 0x15#5, 0x18#5, 0x1f#5].map (fun a => serve1 (.write a 0xff#64) State.reset) =
      List.replicate 4 (some State.reset) := by decide +kernel

/-- V-H3. -/
theorem test_read_zero :
    [0x14#5, 0x17#5, 0x18#5, 0x1f#5].map (hostRead latched) = List.replicate 4 0#64 := by
  decide +kernel

/-- V-H4. -/
theorem test_limb_write :
    (serve1 (.write 0x05#5 0xdeadbeef#64) State.reset).map (fun t => (t.k[1].toNat, t.k[0])) =
      some (0xdeadbeef * 2 ^ 64, 0#256) := by decide +kernel

/-- Program 2, line 10: a read of `STATUS` with F0 to F4 valid, `ERR` = 1. -/
theorem test_read_status :
    (serve1 (.read 0x15#5)
      ((((((State.reset.setF 0 0#256).setF 1 0#256).setF 2 1#256).setF 3 0#256).setF 4 1#256).raise
        .invalidModulus 0x26522000#64)).map (fun t => t.rsp) = some (some 0x1f10#64) := by
  decide +kernel

/-- R220, R222. -/
theorem test_reset :
    (serve1 .reset ((points G G2).setK 0 5#256)) = some State.reset ∧
      (serve1 (.resetDuringCommand 0x32201000#64) ((points G G2).setK 0 5#256)) =
        some State.reset := by decide +kernel

/-- R92's example text. -/
theorem test_asm : asmText (.fadd 3 1 2) = "FADD F3, F1, F2" ∧
    asmText (.fscli 2 1 0xffff#16) = "FSCLI F2, F1, -1" := by decide +kernel

/-! ### Witnesses: states and operands that meet the hypotheses of each statement -/

theorem witness_DecodeThenEncode : decode 0x20312000#64 = .ok (.fadd 3 1 2) := by decide +kernel

theorem witness_OneRowMatchesOrIllegal :
    (∃ i, decode 0x35012000#64 = .ok i) ∧ ∃ r, decode 0x35412000#64 = .error r :=
  ⟨⟨.peq 1 2, by decide +kernel⟩, ⟨.fieldOutOfClass, by decide +kernel⟩⟩

theorem witness_LegalWordsAreTheClassChecked :
    wellFormed 0x35012000#64 = true ∧ wellFormed 0x35412000#64 = false := by decide +kernel

theorem witness_StepRunsDecodedCommand :
    (waiting (.write addrCmd 0x13000001#64)).pending = .write addrCmd 0x13000001#64 :: [] ∧
      (waiting (.write addrCmd 0x13000001#64)).err = none ∧
      decode 0x13000001#64 = .ok (.fseti 0 1#16) := by decide +kernel

theorem witness_IllegalWordRaises :
    (waiting (.write addrCmd 0x17000000#64)).pending = .write addrCmd 0x17000000#64 :: [] ∧
      (waiting (.write addrCmd 0x17000000#64)).err = none ∧ wellFormed 0x17000000#64 = false := by
  decide +kernel

theorem witness_LatchDiscardsOnlyCommands_cmd :
    (waiting (.write addrCmd 0x13000001#64) latched).err ≠ none ∧
      (waiting (.write addrCmd 0x13000001#64) latched).pending =
        .write addrCmd 0x13000001#64 :: [] := by decide +kernel

theorem witness_LatchDiscardsOnlyCommands_limb :
    (waiting (.write (addrK 3 3) 1#64) latched).err ≠ none ∧
      (waiting (.write (addrK 3 3) 1#64) latched).pending = .write (addrK 3 3) 1#64 :: [] := by
  decide +kernel

theorem witness_LatchDiscardsOnlyCommands_read :
    (waiting (.read 0x1f#5) latched).err ≠ none ∧
      (waiting (.read 0x1f#5) latched).pending = .read 0x1f#5 :: [] := by decide +kernel

theorem witness_LatchDiscardsOnlyCommands_errclr :
    (waiting (.write addrErrclr 1#64) latched).err ≠ none ∧
      (waiting (.write addrErrclr 1#64) latched).pending = .write addrErrclr 1#64 :: [] := by
  decide +kernel

/-- The ends of the ignored ranges, in the latch. -/
theorem witness_LatchDiscardsOnlyCommands_ignored :
    ∀ a ∈ [0x10#5, 0x13#5, 0x15#5, 0x16#5, 0x18#5, 0x1f#5],
      (waiting (.write a 1#64) latched).err ≠ none ∧
        ((∃ j, a = addrMod j) ∨ a = addrStatus ∨ a = addrEcmd ∨ 0x18 ≤ a.toNat) ∧
        (waiting (.write a 1#64) latched).pending = .write a 1#64 :: [] := by decide +kernel

theorem witness_ErrclrClearsTheLatch :
    (waiting (.write addrErrclr 1#64) latched).pending = .write addrErrclr 1#64 :: [] := by
  decide +kernel

theorem witness_KLimbWriteReplacesOneLimb_first :
    (waiting (.write (addrK 0 0) 7#64)).pending = .write (addrK 0 0) 7#64 :: [] ∧
      (1 : Fin 4) ≠ 0 := by decide +kernel

theorem witness_KLimbWriteReplacesOneLimb_last :
    (waiting (.write (addrK 3 3) 7#64)).pending = .write (addrK 3 3) 7#64 :: [] ∧
      (2 : Fin 4) ≠ 3 := by decide +kernel

theorem witness_PortSideEffects_read :
    (waiting (.read 0x00#5)).pending = .read 0x00#5 :: [] ∧
      (waiting (.read 0x1f#5)).pending = .read 0x1f#5 :: [] := by decide +kernel

theorem witness_PortSideEffects_limb :
    (waiting (.write (addrK 0 0) 7#64)).pending = .write (addrK 0 0) 7#64 :: [] ∧
      (waiting (.write (addrK 3 3) 7#64)).pending = .write (addrK 3 3) 7#64 :: [] ∧
      (0 : KIdx) ≠ 3 := by decide +kernel

theorem witness_PortSideEffects_command :
    (waiting (.write addrCmd 0#64)).pending = .write addrCmd 0#64 :: [] ∧
      (waiting (.write addrErrclr 0#64) latched).pending = .write addrErrclr 0#64 :: [] := by
  decide +kernel

/-- The ends of the ignored ranges: 0x10, 0x13, 0x15, 0x16, 0x18, 0x1f. -/
theorem witness_PortSideEffects_ignored :
    ∀ a ∈ [0x10#5, 0x13#5, 0x15#5, 0x16#5, 0x18#5, 0x1f#5],
      ((∃ j, a = addrMod j) ∨ a = addrStatus ∨ a = addrEcmd ∨ 0x18 ≤ a.toNat) ∧
        (waiting (.write a 1#64)).pending = .write a 1#64 :: [] := by decide +kernel

theorem witness_PortSideEffects_zero :
    ∀ a ∈ [0x14#5, 0x17#5, 0x18#5, 0x1f#5],
      a = addrCmd ∨ a = addrErrclr ∨ 0x18 ≤ a.toNat := by decide +kernel

/-- A write to `ERRCLR`, which is no command and no reset. -/
theorem witness_PortSideEffects_unchanged :
    (waiting (.write addrErrclr 1#64) latched).pending = .write addrErrclr 1#64 :: [] ∧
      (∀ w, HostEvent.write addrErrclr 1#64 ≠ .write addrCmd w) ∧
      HostEvent.write addrErrclr 1#64 ≠ .reset ∧
      (∀ w, HostEvent.write addrErrclr 1#64 ≠ .resetDuringCommand w) ∧
      step (waiting (.write addrErrclr 1#64) latched) = .next State.reset :=
  ⟨rfl, fun _ h => absurd (HostEvent.write.inj h).1 (by decide), by decide, by simp, rfl⟩

theorem witness_NoEventWaits : State.reset.pending = [] := by decide +kernel

theorem witness_ResetFromAnyState_reset :
    (waiting .reset latched).pending = .reset :: [] := by decide +kernel

theorem witness_ResetFromAnyState_during :
    (waiting (.resetDuringCommand 0x32201000#64)).pending =
      .resetDuringCommand 0x32201000#64 :: [] := by decide +kernel

theorem witness_StepKeepsCanonical :
    (field 7#256 3#256 5#256).Canonical ∧ ∃ t, step (field 7#256 3#256 5#256) = .next t :=
  ⟨field_canonical (by decide) (by decide), ⟨_, rfl⟩⟩

theorem witness_StepKeepsErrorExplained :
    (waiting (.write addrCmd 0x20100000#64)).errorExplained = true ∧
      ∃ t, step (waiting (.write addrCmd 0x20100000#64)) = .next t :=
  ⟨by decide +kernel, ⟨_, rfl⟩⟩

/-- A decoded command that raises, and an illegal word. -/
theorem witness_ErrorsArePrecise :
    (∃ t, step (waiting (.write addrCmd 0x20100000#64)) = .next t ∧
        t.err = some .invalidRegister) ∧
      ∃ t, step (waiting (.write addrCmd 0x17000000#64)) = .next t ∧
        t.err = some .illegalCommand :=
  ⟨⟨_, rfl, rfl⟩, ⟨_, rfl, rfl⟩⟩

/-- An error becomes pending; a write to `ERRCLR` and both resets clear it. -/
theorem witness_ErrorsDoNotNest :
    (∃ t, step (waiting (.write addrCmd 0x17000000#64)) = .next t ∧ t.err ≠ none) ∧
      (∃ t, step (waiting (.write addrErrclr 1#64) latched) = .next t ∧ t.err ≠ latched.err) ∧
      (∃ t, step (waiting .reset latched) = .next t ∧ t.err ≠ latched.err) ∧
      ∃ t, step (waiting (.resetDuringCommand 0#64) latched) = .next t ∧ t.err ≠ latched.err :=
  ⟨⟨_, rfl, by decide⟩, ⟨_, rfl, by decide⟩, ⟨_, rfl, by decide⟩, ⟨_, rfl, by decide⟩⟩

/-- A command that can raise an error, with a state where it does, and one that cannot. -/
theorem witness_RaiseTable :
    (Instr.modld 0).mayRaise .invalidModulus = true ∧
      (∃ t, exec (.modld 0) State.reset = .next t ∧ t.err = some .invalidModulus) ∧
      (Instr.fld 0 0).mayRaise .invalidRegister = false := ⟨by decide, ⟨_, rfl, rfl⟩, by decide⟩

/-- Commands of each kind of destination, with a register of each file that is not theirs. -/
theorem witness_CommandFrame :
    (∃ t, exec (.fadd 3 0 1) (field 7#256 3#256 5#256) = .next t) ∧
      (Instr.fadd 3 0 1).kDest ≠ some 0 ∧ (Instr.fadd 3 0 1).isModld = false ∧
      (Instr.fadd 3 0 1).fDest ≠ some 7 ∧ (Instr.fadd 3 0 1).qDest ≠ some 3 ∧
      (Instr.fadd 3 0 1).writesEq = false ∧ (Instr.fst 2 0).kDest ≠ some 3 ∧
      (Instr.pidn 2).qDest ≠ some 3 :=
  ⟨⟨_, rfl⟩, by decide, by decide, by decide, by decide, by decide, by decide, by decide⟩

/-- MODLD, and reset from a state whose modulus is 7. -/
theorem witness_ModulusChangeInvalidatesF :
    (∃ t, step (waiting (.write addrCmd 0x10000000#64) (State.reset.setK 0 2#256)) = .next t ∧
        t.modulus ≠ State.reset.modulus) ∧
      (∃ t, step (waiting .reset (field 7#256 3#256 5#256)) = .next t ∧ t.modulus ≠ 7#256) ∧
      ∃ t, step (waiting (.resetDuringCommand 0#64) (field 7#256 3#256 5#256)) = .next t ∧
        t.modulus ≠ 7#256 :=
  ⟨⟨_, rfl, by decide⟩, ⟨_, rfl, by decide⟩, ⟨_, rfl, by decide⟩⟩

theorem witness_PointCommandsIgnoreModulusAndF :
    (Instr.pgen 0).isPoint = true ∧ ∃ t, exec (.pgen 0) State.reset = .next t :=
  ⟨by decide, ⟨_, rfl⟩⟩

/-- Both sources of a field command, and the second source of a point command. -/
theorem witness_InvalidSourceRaises :
    (∃ r ∈ (Instr.fadd 3 0 1).fSources, State.reset.f[r] = none) ∧
      ∃ r ∈ (Instr.padd 2 0 1).qSources, (State.reset.setQ 0 G).q[r] = none := by decide +kernel

/-- The highest set bit at 0 and at 255, and every index bound. -/
theorem witness_PrimitiveArithmetic :
    (u256Bit 1#256 0 = true ∧ ∀ j : Fin 256, 0 < j → u256Bit 1#256 j = false) ∧
      (u256Bit (BitVec.ofNat 256 (2 ^ 255)) 255 = true ∧
        ∀ j : Fin 256, 255 < j → u256Bit (BitVec.ofNat 256 (2 ^ 255)) j = false) := by
  decide +kernel

theorem witness_SerialMultiplyIsProduct : (big - 1#256).toNat < big.toNat := by decide +kernel

theorem witness_SquareAndMultiplyIsPower : 1 ≤ (1#256).toNat := by decide +kernel

theorem witness_ModldLoadsOrRaises :
    (State.reset.setK 3 1#256).k[(3 : KIdx)] ≠ 0#256 ∧ State.reset.k[(0 : KIdx)] = 0#256 := by
  decide +kernel

theorem witness_FldReduces : (State.reset.loadModulus 1#256).ModulusLegal := by decide +kernel

theorem witness_FstCopies :
    (field 7#256 3#256 5#256).f[(0 : FIdx)] = some 3#256 ∧ State.reset.f[(7 : FIdx)] = none := by
  decide +kernel

theorem witness_FsetiConvertsOrRaises :
    ((0x7fff#16).getLsbD 15 = false ∧ State.reset.ModulusLegal) ∧
      (0x8000#16).getLsbD 15 = true := by decide +kernel

theorem witness_PstxPstyCopy :
    (points G G2).q[(1 : QIdx)] = some G2 ∧ State.reset.q[(3 : QIdx)] = none := by decide +kernel

/-- FADD and FSUB on canonical registers, each source invalid in turn. -/
theorem witness_FaddAdds :
    (field 7#256 3#256 5#256).Canonical ∧ (field 7#256 3#256 5#256).f[(0 : FIdx)] = some 3#256 ∧
      (field 7#256 3#256 5#256).f[(1 : FIdx)] = some 5#256 ∧
      (field 7#256 3#256 5#256).f[(2 : FIdx)] = none :=
  ⟨field_canonical (by decide) (by decide), by decide +kernel⟩

theorem witness_FsubSubtracts :
    (field 7#256 0#256 6#256).Canonical ∧ (field 7#256 0#256 6#256).f[(0 : FIdx)] = some 0#256 ∧
      (field 7#256 0#256 6#256).f[(1 : FIdx)] = some 6#256 ∧
      (field 7#256 0#256 6#256).f[(2 : FIdx)] = none :=
  ⟨field_canonical (by decide) (by decide), by decide +kernel⟩

theorem witness_FnegNegates :
    (field 7#256 0#256 6#256).Canonical ∧ (field 7#256 0#256 6#256).f[(0 : FIdx)] = some 0#256 ∧
      State.reset.f[(0 : FIdx)] = none :=
  ⟨field_canonical (by decide) (by decide), by decide +kernel⟩

theorem witness_FmulMultiplies :
    ((field big 3#256 (big - 1#256)).ModulusLegal ∧
      (field big 3#256 (big - 1#256)).f[(0 : FIdx)] = some 3#256 ∧
      (field big 3#256 (big - 1#256)).f[(1 : FIdx)] = some (big - 1#256)) ∧
      State.reset.f[(0 : FIdx)] = none := by decide +kernel

theorem witness_FsclScales :
    ((field 1#256 0#256 0#256 5#256).ModulusLegal ∧
      (field 1#256 0#256 0#256 5#256).f[(1 : FIdx)] = some 0#256) ∧
      State.reset.f[(1 : FIdx)] = none := by decide +kernel

theorem witness_FscliScalesOrRaises :
    ((field 7#256 3#256 5#256).f[(1 : FIdx)] = some 5#256 ∧ (0x7fff#16).getLsbD 15 = false ∧
      (field 7#256 3#256 5#256).ModulusLegal) ∧
      (0x8000#16).getLsbD 15 = true ∧ State.reset.f[(1 : FIdx)] = none := by decide +kernel

/-- The least modulus that divides, with a divisor and with the divisor 0, and the greatest that does
not, and an invalid divisor. -/
theorem witness_FdivDividesOrRaises :
    (2 < (field 3#256 1#256 2#256).modulus.toNat ∧ (2#256 : U256) ≠ 0#256 ∧
      (field 3#256 1#256 2#256).f[(0 : FIdx)] = some 1#256 ∧
      (field 3#256 1#256 2#256).f[(1 : FIdx)] = some 2#256) ∧
      (2 < (field 3#256 1#256 0#256).modulus.toNat ∧
        (field 3#256 1#256 0#256).f[(1 : FIdx)] = some 0#256) ∧
      ((field 2#256 1#256 0#256).modulus.toNat ≤ 2 ∧
        (field 2#256 1#256 0#256).f[(1 : FIdx)] = some 0#256) ∧
      (field 3#256 1#256 2#256).f[(2 : FIdx)] = none := by decide +kernel

theorem witness_FexpRaisesToPower :
    ((field 1#256 0#256 0#256 0#256).ModulusLegal ∧
      (field 1#256 0#256 0#256 0#256).f[(1 : FIdx)] = some 0#256) ∧
      State.reset.f[(1 : FIdx)] = none := by decide +kernel

theorem witness_FeqCompares :
    ((field 7#256 3#256 5#256).f[(0 : FIdx)] = some 3#256 ∧
      (field 7#256 3#256 5#256).f[(1 : FIdx)] = some 5#256) ∧
      (field 7#256 3#256 5#256).f[(2 : FIdx)] = none := by decide +kernel

theorem witness_FdivIsQuotientForPrimes :
    (field 7#256 3#256 5#256).modulus.toNat.Prime ∧ (field 7#256 3#256 5#256).Canonical ∧
      2 < (field 7#256 3#256 5#256).modulus.toNat ∧
      (field 7#256 3#256 5#256).f[(0 : FIdx)] = some 3#256 ∧
      (field 7#256 3#256 5#256).f[(1 : FIdx)] = some 5#256 ∧ (5#256 : U256) ≠ 0#256 :=
  ⟨Nat.prime_seven, field_canonical (by decide) (by decide), by decide +kernel⟩

theorem witness_FexpByFermatExponentIsInverse :
    2 < (field 9#256 2#256 1#256 7#256).modulus.toNat ∧
      (field 9#256 2#256 1#256 7#256).f[(0 : FIdx)] = some 2#256 ∧ (2#256 : U256) ≠ 0#256 ∧
      (field 9#256 2#256 1#256 7#256).f[(1 : FIdx)] = some 1#256 ∧
      (field 9#256 2#256 1#256 7#256).k[(0 : KIdx)].toNat =
        (field 9#256 2#256 1#256 7#256).modulus.toNat - 2 := by decide +kernel

/-- A field element 0, whose negation is not P, and a point. -/
theorem witness_NegationIsInvolution :
    ((field 7#256 0#256 5#256).Canonical ∧ (field 7#256 0#256 5#256).f[(0 : FIdx)] = some 0#256) ∧
      (points G G2).Canonical ∧ (points G G2).q[(0 : QIdx)] = some G :=
  ⟨⟨field_canonical (by decide) (by decide), by decide +kernel⟩,
    points_canonical (by decide) (by decide), by decide +kernel⟩

theorem witness_FsclAgreesWithFldThenFmul :
    (field 7#256 3#256 5#256 100#256).ModulusLegal ∧
      (field 7#256 3#256 5#256 100#256).f[(0 : FIdx)] = some 3#256 ∧ (2 : FIdx) ≠ 0 := by
  decide +kernel

/-- Nonzero denominators (V-P13), and each denominator 0 in turn (V-P14, V-P15). -/
theorem witness_PaddAddsOrRaises :
    (points ⟨1#256, 1#256⟩ ⟨2#256, 3#256⟩).q[(0 : QIdx)] = some ⟨1#256, 1#256⟩ ∧
      (points ⟨1#256, 1#256⟩ ⟨2#256, 3#256⟩).q[(1 : QIdx)] = some ⟨2#256, 3#256⟩ ∧
      ((1 + crossTermNat State.reset.cfg.curveD ⟨1#256, 1#256⟩ ⟨2#256, 3#256⟩) % p25519.toNat ≠ 0 ∧
        (1 + p25519.toNat - crossTermNat State.reset.cfg.curveD ⟨1#256, 1#256⟩ ⟨2#256, 3#256⟩) %
          p25519.toNat ≠ 0) ∧
      (1 + crossTermNat State.reset.cfg.curveD ⟨1#256, 1#256⟩ ⟨1#256, yMinus⟩) % p25519.toNat = 0 ∧
      (1 + p25519.toNat - crossTermNat State.reset.cfg.curveD ⟨1#256, 1#256⟩ ⟨1#256, yPlus⟩) %
        p25519.toNat = 0 ∧
      (points G G2).q[(2 : QIdx)] = none := by decide +kernel

theorem witness_PnegNegates :
    (points G G2).Canonical ∧ (points G G2).q[(0 : QIdx)] = some G ∧
      State.reset.q[(0 : QIdx)] = none :=
  ⟨points_canonical (by decide) (by decide), by decide +kernel⟩

/-- G - G has nonzero denominators; with the subtrahend (-1, y) of V-P14 and V-P15 one is 0. -/
theorem witness_PsubSubtractsOrRaises :
    let n : Point := ⟨p25519 - genX, genY⟩
    let m : U256 := p25519 - 1#256
    (points G G).q[(0 : QIdx)] = some G ∧ (points G G).q[(1 : QIdx)] = some G ∧
      n.x.toNat = (p25519.toNat - G.x.toNat) % p25519.toNat ∧ n.y = G.y ∧
      ((1 + crossTermNat State.reset.cfg.curveD G n) % p25519.toNat ≠ 0 ∧
        (1 + p25519.toNat - crossTermNat State.reset.cfg.curveD G n) % p25519.toNat ≠ 0) ∧
      (1#256).toNat = (p25519.toNat - m.toNat) % p25519.toNat ∧
      (1 + crossTermNat State.reset.cfg.curveD ⟨1#256, 1#256⟩ ⟨1#256, yMinus⟩) % p25519.toNat = 0 ∧
      (1 + p25519.toNat - crossTermNat State.reset.cfg.curveD ⟨1#256, 1#256⟩ ⟨1#256, yPlus⟩) %
        p25519.toNat = 0 ∧
      (points G G2).q[(3 : QIdx)] = none := by decide +kernel

theorem witness_PeqCompares :
    ((points G G2).q[(0 : QIdx)] = some G ∧ (points G G2).q[(1 : QIdx)] = some G2) ∧
      (points G G2).q[(2 : QIdx)] = none := by decide +kernel

theorem witness_IdentityIsNeutral :
    (points ⟨1#256, 1#256⟩ ⟨0#256, 1#256⟩).Canonical ∧
      (points ⟨1#256, 1#256⟩ ⟨0#256, 1#256⟩).q[(0 : QIdx)] = some ⟨1#256, 1#256⟩ ∧
      (points ⟨1#256, 1#256⟩ ⟨0#256, 1#256⟩).q[(1 : QIdx)] = some ⟨0#256, 1#256⟩ :=
  ⟨points_canonical (by decide) (by decide), by decide +kernel⟩

/-- Points on the curve with the default d [GK] (R171), and a PADD of them. -/
theorem onCurve_G : OnCurve Config.default.curveD G ∧ OnCurve Config.default.curveD G2 := by
  unfold OnCurve
  decide +kernel

theorem witness_PointsStayOnCurve :
    (waiting (.write addrCmd 0x32201000#64) (points G G2)).Canonical ∧
      OnCurve Config.default.curveD ⟨Config.default.genX, Config.default.genY⟩ ∧
      (∀ (i : QIdx) (p : Point),
        (waiting (.write addrCmd 0x32201000#64) (points G G2)).q[i] = some p →
          OnCurve Config.default.curveD p) ∧
      (∀ w rest qd ksx ksy,
        (waiting (.write addrCmd 0x32201000#64) (points G G2)).pending =
          .write addrCmd w :: rest → decode w ≠ .ok (.pld qd ksx ksy)) ∧
      ∃ t, step (waiting (.write addrCmd 0x32201000#64) (points G G2)) = .next t := by
  refine ⟨points_canonical (p1 := G) (p2 := G2) (by decide) (by decide), onCurve_G.1, ?_, ?_, ?_⟩
  · intro i p h
    have := onCurve_G
    fin_cases i <;> simp_all [waiting, points, State.setQ, State.reset]
  · intro w rest qd ksx ksy h hd
    have hw : decode 0x32201000#64 = .ok (.padd 2 0 1) := by decide +kernel
    simp only [waiting, List.cons.injEq, HostEvent.write.injEq, true_and] at h
    rw [← h.1, hw] at hd
    simp at hd
  · obtain ⟨r, hr⟩ := exec_retires (.padd 2 0 1) (points G G2)
    obtain ⟨t, ht⟩ := retire_next (.padd 2 0 1) (points G G2) r
    have hw : decode 0x32201000#64 = .ok (.padd 2 0 1) := by decide +kernel
    refine ⟨t, ?_⟩
    rw [step_serves (ev := .write addrCmd 0x32201000#64) (rest := []) rfl, serve_write_cmd,
      cmdWrite_open rfl, execute_legal hw, ← ht, ← hr]
    rfl

/-- Euler's criterion, in the form used to show that d is no square. -/
theorem no_square {P d : Nat} (hpr : P.Prime) (h0 : d % P ≠ 0) (he : 2 * ((P - 1) / 2) = P - 1)
    (h3 : P - 1 ≠ 1 % P) (hb : (P - 1) / 2 < 2 ^ 256)
    (hpow : Prime.powMod d P 256 ((P - 1) / 2) = P - 1) (n : Nat) : n ^ 2 % P ≠ d % P := by
  intro h
  rw [Prime.powMod_eq _ _ _ _ hb, Nat.pow_mod, ← h, ← Nat.pow_mod, ← pow_mul, he,
    ← Nat.totient_prime hpr] at hpow
  have hc : Nat.Coprime n P := by
    rw [Nat.coprime_comm, hpr.coprime_iff_not_dvd]
    intro hdv
    apply h0
    rw [← h, ← Nat.dvd_iff_mod_eq_zero]
    exact dvd_pow hdv two_ne_zero
  rw [Nat.ModEq.pow_totient hc, Nat.totient_prime hpr] at hpow
  exact h3 hpow.symm

theorem default_d_no_square (n : Nat) :
    n ^ 2 % p25519.toNat ≠ Config.default.curveD.toNat % p25519.toNat :=
  no_square Prime.p25519_prime (by decide +kernel) (by decide +kernel) (by decide +kernel)
    (by decide +kernel) (by decide +kernel) n

/-- PADD of G and 2G: each is on the curve, and d is no square. -/
theorem witness_PointCommandsCompleteOnCurve :
    (Instr.padd 2 0 1).isPoint = true ∧
      (∀ n : Nat, n ^ 2 % p25519.toNat ≠ (points G G2).cfg.curveD.toNat % p25519.toNat) ∧
      (points G G2).Canonical ∧
      (∀ (r : QIdx) (p : Point), (points G G2).q[r] = some p →
        OnCurve (points G G2).cfg.curveD p) ∧
      ∀ r ∈ (Instr.padd 2 0 1).qSources, (points G G2).q[r] ≠ none := by
  refine ⟨rfl, default_d_no_square, points_canonical (by decide) (by decide), ?_, by decide +kernel⟩
  intro r p h
  have := onCurve_G
  fin_cases r <;> simp_all [points, State.setQ, State.reset]

theorem witness_KliLoadsARawRegister :
    { State.reset with pending := kli 3 7#256 ++ [HostEvent.reset] }.pending =
      kli 3 7#256 ++ [HostEvent.reset] := by decide +kernel

theorem witness_FieldPseudoInstructions :
    (field 1#256 0#256 0#256).Canonical ∧
      (field 1#256 0#256 0#256).f[(1 : FIdx)] = some 0#256 :=
  ⟨field_canonical (by decide) (by decide), by decide +kernel⟩

end Sys2Proof.Tests
end

section
/-! PROOFS. The state statements: the canonical form that every step keeps, what a command leaves
unchanged, what changes `MOD`, the sources, and reset (10_state.md). -/

namespace Sys2Proof.Machine

/-! ### Canonical form, write by write

Every other write leaves `MOD`, F, Q and the constants, and with them `State.Canonical`, as they
are, by definition. -/

theorem canonical_setF {s : State} (h : s.Canonical) (r : FIdx) {v : U256}
    (hv : v.toNat < s.modulus.toNat) : (s.setF r v).Canonical := by
  obtain ⟨hm, hf, hq, hg⟩ := h
  refine ⟨hm, fun j a ha => ?_, hq, hg⟩
  rw [State.setF_get] at ha
  split at ha
  · cases ha; exact hv
  · exact hf j a ha

theorem canonical_setQ {s : State} (h : s.Canonical) (r : QIdx) {p : Point} (hp : p.Canonical) :
    (s.setQ r p).Canonical := by
  obtain ⟨hm, hf, hq, hg⟩ := h
  refine ⟨hm, hf, fun j a ha => ?_, hg⟩
  rw [State.setQ_get] at ha
  split at ha
  · cases ha; exact hp
  · exact hq j a ha

theorem canonical_loadModulus {s : State} (h : s.Canonical) {v : U256} (hv : 1 ≤ v.toNat) :
    (s.loadModulus v).Canonical := by
  obtain ⟨-, -, hq, hg⟩ := h
  refine ⟨hv, fun j a ha => ?_, hq, hg⟩
  rw [State.loadModulus_get] at ha
  cases ha

/-- Reset needs only the wired generator to be canonical: no register is valid after it. -/
theorem canonical_afterReset {s : State} (h : s.GeneratorCanonical) : s.afterReset.Canonical := by
  refine ⟨p25519_pos, fun j a ha => ?_, fun j a ha => ?_, h⟩ <;> simp at ha

theorem Completes.canonical {i : Instr} {s t : State} (hc : Completes i s t) (h : s.Canonical) :
    t.Canonical := by
  cases hc with
  | writesK r v _ => exact h
  | writesF r v _ hv => exact canonical_setF h r (hv h.1)
  | writesQ r p _ hp => exact canonical_setQ h r (hp h)
  | loadsModulus v _ hv => exact canonical_loadModulus h hv
  | writesEq b _ => exact h

theorem exec_canonical {i : Instr} {s t : State} (h : s.Canonical) (hx : exec i s = .next t) :
    t.Canonical := by
  rcases exec_cases i s with ⟨u, hu, hc⟩ | ⟨e, -, he⟩
  · cases hu.symm.trans hx
    exact hc.canonical h
  · cases he.symm.trans hx
    exact h

/-- Settles O18: a command keeps the canonical form by its one write, reset by making every register
invalid, and no other host event touches `MOD`, F, Q or the constants. -/
theorem stepKeepsCanonical : Obligations.StepKeepsCanonical := by
  intro s t h hstep
  cases step_cases hstep with
  | reset rest _ =>
    obtain ⟨-, -, -, hg⟩ := h
    exact canonical_afterReset hg
  | command rest w i _ _ _ _ hx =>
    exact exec_canonical (s := { s with pending := rest, rsp := none }) h hx
  | idle | read | writeK | clearError | ignored | illegal => exact h

/-! ### What a command leaves unchanged -/

/-- The frame of each of the five writes: it stays inside the destination the command names. -/
theorem Completes.frame {i : Instr} {s t : State} (hc : Completes i s t) :
    (∀ r, i.kDest ≠ some r → t.k[r] = s.k[r]) ∧
      (i.isModld = false → t.modulus = s.modulus ∧ ∀ r, i.fDest ≠ some r → t.f[r] = s.f[r]) ∧
      (∀ r, i.qDest ≠ some r → t.q[r] = s.q[r]) ∧
      (i.writesEq = false → t.eqFlag = s.eqFlag) ∧
      t.cfg = s.cfg ∧ t.pending = s.pending ∧ t.rsp = s.rsp := by
  cases hc with
  | writesK d v hd =>
    refine ⟨fun r hr => ?_, by simp⟩
    rw [State.setK_get, if_neg (by rintro rfl; exact hr hd)]
  | writesF d v hd _ =>
    refine ⟨by simp, fun _ => ⟨rfl, fun r hr => ?_⟩, by simp⟩
    rw [State.setF_get, if_neg (by rintro rfl; exact hr hd)]
  | writesQ d p hd _ =>
    refine ⟨by simp, by simp, fun r hr => ?_, by simp⟩
    rw [State.setQ_get, if_neg (by rintro rfl; exact hr hd)]
  | loadsModulus v hm _ => simp [hm]
  | writesEq b he => simp [he]

/-- Settles O24: a command that completes stays inside the frame of its write, and one that raises
changes `ERR` and `ECMD` only. -/
theorem commandFrame : Obligations.CommandFrame := by
  intro i s t hx
  rcases exec_cases i s with ⟨u, hu, hc⟩ | ⟨e, -, he⟩
  · cases hu.symm.trans hx
    exact hc.frame
  · cases he.symm.trans hx
    simp

/-! ### The word of a decoded command -/

/-- The fields of a selected R-format row make up the word, when each operand or unused field is
fixed by the masked bits. -/
theorem rFormat_of_selects {r : Row} {w : BitVec 32} (h : r.selects w = true) {rd rs1 rs2 : Nat}
    (hop : opcodeField r.mask = BitVec.allOnes 8) (hm : r.mask.extractLsb' 0 12 = BitVec.allOnes 12)
    (hp : r.pattern.extractLsb' 0 12 = 0#12)
    (h1 : rdField w &&& rdField r.mask = rdField r.pattern → BitVec.ofNat 4 rd = rdField w)
    (h2 : rs1Field w &&& rs1Field r.mask = rs1Field r.pattern → BitVec.ofNat 4 rs1 = rs1Field w)
    (h3 : rs2Field w &&& rs2Field r.mask = rs2Field r.pattern → BitVec.ofNat 4 rs2 = rs2Field w) :
    rFormat (opcodeField r.pattern) rd rs1 rs2 = w := by
  obtain ⟨hop', hrd, hrs1, hrs2, hlow⟩ := Row.selects_fields h
  rw [hop, BitVec.and_allOnes] at hop'
  rw [hm, hp, BitVec.and_allOnes] at hlow
  exact rFormat_of_fields hop' (h1 hrd) (h2 hrs1) (h3 hrs2) hlow

/-- The same for an I-format row, whose literal is a field of its own. -/
theorem iFormat_of_selects {r : Row} {w : BitVec 32} (h : r.selects w = true) {rd rs1 : Nat}
    (hop : opcodeField r.mask = BitVec.allOnes 8)
    (h1 : rdField w &&& rdField r.mask = rdField r.pattern → BitVec.ofNat 4 rd = rdField w)
    (h2 : rs1Field w &&& rs1Field r.mask = rs1Field r.pattern → BitVec.ofNat 4 rs1 = rs1Field w) :
    iFormat (opcodeField r.pattern) rd rs1 (imm16Field w) = w := by
  obtain ⟨hop', hrd, hrs1, -, -⟩ := Row.selects_fields h
  rw [hop, BitVec.and_allOnes] at hop'
  exact iFormat_of_fields hop' (h1 hrd) (h2 hrs1)

theorem encode_build_move {r : Row} (hr : r ∈ moveRows) {w : BitVec 32} (h : r.selects w = true) :
    encode (r.build w) = w := by
  simp only [moveRows, List.mem_cons, List.not_mem_nil, or_false] at hr
  obtain rfl | rfl | rfl | rfl | rfl | rfl | rfl := hr
  · exact rFormat_of_selects h rfl rfl rfl unused_back index4_back unused_back
  · exact rFormat_of_selects h rfl rfl rfl index8_back index4_back unused_back
  · exact rFormat_of_selects h rfl rfl rfl index4_back index8_back unused_back
  · exact iFormat_of_selects h rfl index8_back unused_back
  · exact rFormat_of_selects h rfl rfl rfl index4_back index4_back index4_back
  · exact rFormat_of_selects h rfl rfl rfl index4_back index4_back unused_back
  · exact rFormat_of_selects h rfl rfl rfl index4_back index4_back unused_back

theorem encode_build_field {r : Row} (hr : r ∈ fieldRows) {w : BitVec 32}
    (h : r.selects w = true) : encode (r.build w) = w := by
  simp only [fieldRows, List.mem_cons, List.not_mem_nil, or_false] at hr
  obtain rfl | rfl | rfl | rfl | rfl | rfl | rfl | rfl | rfl := hr
  · exact rFormat_of_selects h rfl rfl rfl index8_back index8_back index8_back
  · exact rFormat_of_selects h rfl rfl rfl index8_back index8_back index8_back
  · exact rFormat_of_selects h rfl rfl rfl index8_back index8_back unused_back
  · exact rFormat_of_selects h rfl rfl rfl index8_back index8_back index8_back
  · exact rFormat_of_selects h rfl rfl rfl index8_back index8_back index4_back
  · exact iFormat_of_selects h rfl index8_back index8_back
  · exact rFormat_of_selects h rfl rfl rfl index8_back index8_back index8_back
  · exact rFormat_of_selects h rfl rfl rfl index8_back index8_back index4_back
  · exact rFormat_of_selects h rfl rfl rfl unused_back index8_back index8_back

theorem encode_build_point {r : Row} (hr : r ∈ pointRows) {w : BitVec 32}
    (h : r.selects w = true) : encode (r.build w) = w := by
  simp only [pointRows, List.mem_cons, List.not_mem_nil, or_false] at hr
  obtain rfl | rfl | rfl | rfl | rfl | rfl := hr
  · exact rFormat_of_selects h rfl rfl rfl index4_back unused_back unused_back
  · exact rFormat_of_selects h rfl rfl rfl index4_back unused_back unused_back
  · exact rFormat_of_selects h rfl rfl rfl index4_back index4_back index4_back
  · exact rFormat_of_selects h rfl rfl rfl index4_back index4_back unused_back
  · exact rFormat_of_selects h rfl rfl rfl index4_back index4_back index4_back
  · exact rFormat_of_selects h rfl rfl rfl unused_back index4_back index4_back

/-- The command a row of R84 builds from a word it selects has that word: each bit the row does not
fix is a bit of an operand. -/
theorem encode_build {r : Row} (hr : r ∈ opcodeTable) {w : BitVec 32} (h : r.selects w = true) :
    encode (r.build w) = w := by
  rw [opcodeTable, List.mem_append, List.mem_append] at hr
  obtain (hr | hr) | hr := hr
  · exact encode_build_move hr h
  · exact encode_build_field hr h
  · exact encode_build_point hr h

theorem encode_of_decodeWord {w : BitVec 32} {i : Instr} (h : decodeWord w = some i) :
    encode i = w := by
  obtain ⟨r, hr, rfl⟩ := Option.map_eq_some_iff.mp h
  exact encode_build (List.mem_of_find?_eq_some hr) (List.find?_some (p := (Row.selects · w)) hr)

/-- A 64-bit value with a zero upper half is its lower half zero-extended. -/
theorem setWidth_setWidth_of_upperHalf {w : U64} (h : w.extractLsb' 32 32 = 0#32) :
    (w.setWidth 32).setWidth 64 = w := by
  have hdiv := congrArg BitVec.toNat h
  rw [BitVec.extractLsb'_toNat, BitVec.toNat_ofNat, Nat.shiftRight_eq_div_pow] at hdiv
  apply BitVec.eq_of_toNat_eq
  rw [BitVec.toNat_setWidth, BitVec.toNat_setWidth]
  omega

/-- The only legal word that decodes to a command is the command's own (R82, R86, R88). -/
theorem eq_commandWord_of_decode {w : U64} {i : Instr} (h : decode w = .ok i) :
    w = commandWord i := by
  rw [decode] at h
  split at h
  · cases h
  · next hup =>
    split at h
    · next j hj =>
      cases h
      rw [commandWord, encode_of_decodeWord hj, setWidth_setWidth_of_upperHalf (not_not.mp hup)]
    · cases h

/-! ### What changes `MOD` -/

/-- Only MODLD changes `MOD`, and then every F register is invalid. -/
theorem exec_modulus_ne {i : Instr} {s t : State} (hx : exec i s = .next t)
    (hne : t.modulus ≠ s.modulus) : i.isModld = true ∧ ∀ r : FIdx, t.f[r] = none := by
  rcases exec_cases i s with ⟨u, hu, hc⟩ | ⟨e, -, he⟩
  · cases hu.symm.trans hx
    cases hc with
    | loadsModulus v hm _ => exact ⟨hm, s.loadModulus_get v⟩
    | writesK | writesF | writesQ | writesEq => exact absurd rfl hne
  · cases he.symm.trans hx
    exact absurd rfl hne

theorem eq_modld_of_isModld {i : Instr} (h : i.isModld = true) : ∃ ks, i = .modld ks := by
  cases i with
  | modld ks => exact ⟨ks, rfl⟩
  | _ => cases h

/-- Settles O25: of all host events only a command and reset can change `MOD`, and of all commands
only MODLD, whose word is the only one that decodes to it. -/
theorem modulusChangeInvalidatesF : Obligations.ModulusChangeInvalidatesF := by
  intro s t hstep hne
  cases step_cases hstep with
  | reset rest h => exact ⟨by simp, rest, .inr h⟩
  | command rest w i _ h he hd hx =>
    obtain ⟨hm, hf⟩ := exec_modulus_ne hx hne
    obtain ⟨ks, rfl⟩ := eq_modld_of_isModld hm
    rw [eq_commandWord_of_decode hd] at h
    exact ⟨hf, rest, .inl ⟨he, ks, h⟩⟩
  | idle | read | writeK | clearError | ignored | illegal => exact absurd rfl hne

/-! ### The point commands and the field engine -/

/-- The state with another `MOD` and another F file. -/
def State.withFieldEngine (s : State) (m : U256) (f : Vector (Option U256) 8) : State :=
  { s with modulus := m, f := f }

/-- A command whose result does not depend on the field engine's state retires alike with any. -/
theorem retire_withFieldEngine {i : Instr} {s t : State} {r : Except CmdError State} (m : U256)
    (f : Vector (Option U256) 8) (h : retire i s r = .next t) :
    retire i (s.withFieldEngine m f) ((·.withFieldEngine m f) <$> r) =
      .next (t.withFieldEngine m f) := by
  cases r <;> cases h <;> rfl

/-- Settles O26: a point command reads Q registers and wired constants only, so its result commutes
with replacing `MOD` and the F file. -/
theorem pointCommandsIgnoreModulusAndF : Obligations.PointCommandsIgnoreModulusAndF := by
  intro i s t m f hi hx
  cases i with
  | pidn qd => exact retire_withFieldEngine (i := .pidn qd) (s := s) (r := .ok _) m f hx
  | pgen qd => exact retire_withFieldEngine (i := .pgen qd) (s := s) (r := .ok _) m f hx
  | padd | pneg | psub | peq =>
    have h := retire_withFieldEngine m f hx
    simp only [map_bind] at h
    exact h
  | _ => cases hi

/-! ### Invalid sources -/

theorem retire_fSource_invalid {i : Instr} {s : State} {a : FIdx}
    {g : U256 → Except CmdError State} (h : ∃ r ∈ [a], s.f[r] = none) :
    retire i s (s.fSource a >>= g) = .next (s.raise .invalidRegister (commandWord i)) := by
  obtain ⟨r, hr, h⟩ := h
  cases List.mem_singleton.mp hr
  rw [State.fSource_invalid h]
  rfl

/-- Of two F sources the first is tested first; whichever is invalid, the error is the same. -/
theorem retire_fSource_fSource_invalid {i : Instr} {s : State} {a b : FIdx}
    {g : U256 → U256 → Except CmdError State} (h : ∃ r ∈ [a, b], s.f[r] = none) :
    retire i s (s.fSource a >>= fun x => s.fSource b >>= g x) =
      .next (s.raise .invalidRegister (commandWord i)) := by
  rcases s.fSource_cases a with ⟨x, hx, ha⟩ | ⟨hx, -⟩
  · rw [ha, ok_bind]
    exact retire_fSource_invalid (by simpa [show s.f[a.val] = some x from hx] using h)
  · exact retire_fSource_invalid ⟨a, by simp, hx⟩

theorem retire_qSource_invalid {i : Instr} {s : State} {a : QIdx}
    {g : Point → Except CmdError State} (h : ∃ r ∈ [a], s.q[r] = none) :
    retire i s (s.qSource a >>= g) = .next (s.raise .invalidRegister (commandWord i)) := by
  obtain ⟨r, hr, h⟩ := h
  cases List.mem_singleton.mp hr
  rw [State.qSource_invalid h]
  rfl

/-- Of two Q sources the first is tested first; whichever is invalid, the error is the same. -/
theorem retire_qSource_qSource_invalid {i : Instr} {s : State} {a b : QIdx}
    {g : Point → Point → Except CmdError State} (h : ∃ r ∈ [a, b], s.q[r] = none) :
    retire i s (s.qSource a >>= fun x => s.qSource b >>= g x) =
      .next (s.raise .invalidRegister (commandWord i)) := by
  rcases s.qSource_cases a with ⟨x, hx, ha⟩ | ⟨hx, -⟩
  · rw [ha, ok_bind]
    exact retire_qSource_invalid (by simpa [show s.q[a.val] = some x from hx] using h)
  · exact retire_qSource_invalid ⟨a, by simp, hx⟩

theorem exec_fSource_invalid {i : Instr} {s : State} (h : ∃ r ∈ i.fSources, s.f[r] = none) :
    exec i s = .next (s.raise .invalidRegister (commandWord i)) := by
  cases i with
  | fst | fneg | fscl | fscli | fexp => exact retire_fSource_invalid h
  | fadd | fsub | fmul | fdiv | feq => exact retire_fSource_fSource_invalid h
  | _ => simp [Instr.fSources] at h

theorem exec_qSource_invalid {i : Instr} {s : State} (h : ∃ r ∈ i.qSources, s.q[r] = none) :
    exec i s = .next (s.raise .invalidRegister (commandWord i)) := by
  cases i with
  | pstx | psty | pneg => exact retire_qSource_invalid h
  | padd | psub | peq => exact retire_qSource_qSource_invalid h
  | _ => simp [Instr.qSources] at h

/-- Settles O27: every command reads all its sources before it tests anything else. -/
theorem invalidSourceRaises : Obligations.InvalidSourceRaises := by
  rintro i s (h | h)
  · exact exec_fSource_invalid h
  · exact exec_qSource_invalid h

/-! ### Waiting and reset -/

/-- Settles O14. -/
theorem noEventWaits : Obligations.NoEventWaits := fun _ => step_idle

theorem p25519_toNat : p25519.toNat = 2 ^ 255 - 19 := by decide

theorem statusWord_afterReset (s : State) : s.afterReset.statusWord = 0#64 :=
  show State.reset.statusWord = 0#64 by decide

theorem hostRead_status (s : State) : hostRead s addrStatus = s.statusWord := by
  simp [hostRead, addrStatus]

theorem step_reset {s : State} {rest : List HostEvent}
    (h : s.pending = .reset :: rest ∨ ∃ w, s.pending = .resetDuringCommand w :: rest) :
    step s = .next (State.afterReset { s with pending := rest, rsp := none }) := by
  rcases h with h | ⟨w, h⟩ <;> exact step_serves h

/-- Settles O15: both reset events give `State.afterReset`, which depends on the constants and the
host's queue only. -/
theorem resetFromAnyState : Obligations.ResetFromAnyState := by
  intro s rest h
  exact ⟨_, step_reset h, rfl, p25519_toNat, rfl, rfl, rfl, rfl, rfl,
    (hostRead_status _).trans (statusWord_afterReset _), rfl, rfl, rfl⟩

/-- Settles O16. -/
theorem resetValues : Obligations.ResetValues := by
  refine ⟨fun i => ?_, p25519_toNat, fun i => ?_, fun i => ?_, rfl, rfl, rfl,
    (hostRead_status _).trans (statusWord_afterReset State.reset)⟩ <;>
    exact Vector.getElem_replicate _

/-- Settles O20: the reset state is what reset makes of itself, and its generator is the
default one. -/
theorem resetMeetsInvariants : Obligations.ResetMeetsInvariants :=
  ⟨canonical_afterReset (s := State.reset) (by decide), rfl⟩

end Sys2Proof.Machine
end

section
/-! PROOFS. The host port: the limbs of a register, the address map, the fields of `STATUS`, what each
host event does, and what `ERR` and `ECMD` hold together (20_memory.md). -/

namespace Sys2Proof.Machine

/-! ### Limbs (10_state.md R22, R54) -/

/-- The value whose limb j is `l j`, as a natural number. -/
def limbSum (l : Fin 4 → U64) : Nat := ∑ j, (l j).toNat * 2 ^ (64 * j.val)

theorem limbSum_eq (l : Fin 4 → U64) :
    limbSum l = (l 0).toNat + 2 ^ 64 * (l 1).toNat + 2 ^ 128 * (l 2).toNat +
      2 ^ 192 * (l 3).toNat := by
  simp [limbSum, Fin.sum_univ_four, Nat.mul_comm]

theorem limbSum_lt (l : Fin 4 → U64) : limbSum l < 2 ^ 256 := by
  rw [limbSum_eq]
  have := (l 0).isLt; have := (l 1).isLt; have := (l 2).isLt; have := (l 3).isLt
  omega

/-- Replacing limb j trades its term of the sum for the new one. -/
theorem limbSum_update (l : Fin 4 → U64) (j : Fin 4) (x : U64) :
    limbSum (Function.update l j x) + (l j).toNat * 2 ^ (64 * j.val) =
      limbSum l + x.toNat * 2 ^ (64 * j.val) := by
  fin_cases j <;> simp [limbSum_eq] <;> ring

theorem limb_toNat (v : U256) (j : Fin 4) :
    (limb v j).toNat = v.toNat / 2 ^ (64 * j.val) % 2 ^ 64 := by
  rw [limb, BitVec.extractLsb'_toNat, Nat.shiftRight_eq_div_pow]

theorem toNat_eq_limbSum (v : U256) : v.toNat = limbSum (limb v) := by
  rw [limbSum_eq]
  have := v.isLt
  norm_num [limb_toNat]
  omega

/-- The limbs of a value are determined by their weighted sum. -/
theorem limb_eq_of_toNat {v : U256} {l : Fin 4 → U64} (h : v.toNat = limbSum l) : limb v = l := by
  funext j
  apply BitVec.eq_of_toNat_eq
  rw [limb_toNat, h, limbSum_eq]
  have := (l 0).isLt; have := (l 1).isLt; have := (l 2).isLt; have := (l 3).isLt
  fin_cases j <;> simp <;> omega

theorem setLimb_toNat (v : U256) (j : Fin 4) (x : U64) :
    (setLimb v j x).toNat = limbSum (Function.update (limb v) j x) := by
  have hv := limbSum_update (limb v) j x
  have h0 := limbSum_update (limb v) j 0#64
  have hlt := limbSum_lt (Function.update (limb v) j x)
  simp only [← toNat_eq_limbSum, BitVec.toNat_ofNat, Nat.zero_mod, Nat.zero_mul] at hv h0
  rw [setLimb, BitVec.toNat_ofNat, Nat.mod_eq_of_lt] <;> omega

theorem limb_setLimb (v : U256) (j : Fin 4) (x : U64) :
    limb (setLimb v j x) = Function.update (limb v) j x :=
  limb_eq_of_toNat (setLimb_toNat v j x)

theorem limb_setLimb_same (v : U256) (j : Fin 4) (x : U64) : limb (setLimb v j x) j = x := by
  rw [limb_setLimb, Function.update_self]

theorem limb_setLimb_ne (v : U256) {j j' : Fin 4} (h : j' ≠ j) (x : U64) :
    limb (setLimb v j x) j' = limb v j' := by
  rw [limb_setLimb, Function.update_of_ne h]

/-- The equation of R22, over the integers. -/
theorem setLimb_equation (v : U256) (j : Fin 4) (x : U64) :
    ((setLimb v j x).toNat : Int) =
      v.toNat - (limb v j).toNat * 2 ^ (64 * j.val) + x.toNat * 2 ^ (64 * j.val) := by
  have h := limbSum_update (limb v) j x
  rw [← setLimb_toNat, ← toNat_eq_limbSum] at h
  zify at h
  linarith

/-! ### What an address reads as -/

theorem hostRead_addrK (s : State) (i : KIdx) (j : Fin 4) :
    hostRead s (addrK i j) = limb s.k[i] j := by
  simp [hostRead, addrK_lt]

theorem hostRead_addrMod (s : State) (j : Fin 4) : hostRead s (addrMod j) = limb s.modulus j := by
  have h : ¬ (addrMod j).toNat < 0x10 ∧ (addrMod j).toNat < 0x14 := by revert j; decide
  simp [hostRead, h]

theorem hostRead_ecmd (s : State) : hostRead s addrEcmd = s.ecmd := by
  simp [hostRead, addrEcmd, addrStatus]

theorem hostRead_zero (s : State) {a : BitVec 5}
    (h : a = addrCmd ∨ a = addrErrclr ∨ 0x18 ≤ a.toNat) : hostRead s a = 0#64 := by
  have ha : ¬ a.toNat < 0x10 ∧ ¬ a.toNat < 0x14 ∧ a ≠ addrStatus ∧ a ≠ addrEcmd := by
    revert a; decide
  simp [hostRead, ha]

/-! ### What a step does with each host event -/

section
variable {s : State} {rest : List HostEvent}

theorem step_read {a : BitVec 5} (h : s.pending = .read a :: rest) :
    step s = .next { s with pending := rest, rsp := some (hostRead s a) } :=
  step_serves h

theorem step_write_k {i : KIdx} {j : Fin 4} {v : U64}
    (h : s.pending = .write (addrK i j) v :: rest) :
    step s = .next
      { s with k := s.k.set i (setLimb s.k[i] j v), pending := rest, rsp := none } := by
  rw [step_serves h, serve_write_k]
  rfl

theorem step_command {w : U64} (h : s.pending = .write addrCmd w :: rest) :
    step s = cmdWrite w { s with pending := rest, rsp := none } := by
  rw [step_serves h, serve_write_cmd]

theorem step_write_errclr {v : U64} (h : s.pending = .write addrErrclr v :: rest) :
    step s = .next { s with err := none, ecmd := 0#64, pending := rest, rsp := none } := by
  rw [step_serves h, serve_write_errclr]
  rfl

/-- A read-only or reserved address ignores the write (R53). -/
theorem step_write_ignored {a : BitVec 5} {v : U64}
    (ha : (∃ j, a = addrMod j) ∨ a = addrStatus ∨ a = addrEcmd ∨ 0x18 ≤ a.toNat)
    (h : s.pending = .write a v :: rest) :
    step s = .next { s with pending := rest, rsp := none } := by
  have h' : ¬ a.toNat < 0x10 ∧ a ≠ addrCmd ∧ a ≠ addrErrclr := by clear h; revert a; decide
  rw [step_serves h]
  simp [serve, hostWrite, h']

/-- What only a `CMD` write or reset changes, every other event leaves as it is; the latch it can
only clear. -/
theorem step_frame_of_not_command {ev : HostEvent} {t : State} (h : s.pending = ev :: rest)
    (hc : ∀ w, ev ≠ .write addrCmd w) (hr : ev ≠ .reset) (hr' : ∀ w, ev ≠ .resetDuringCommand w)
    (hstep : step s = .next t) :
    t.modulus = s.modulus ∧ t.f = s.f ∧ t.q = s.q ∧ t.eqFlag = s.eqFlag ∧
      (t.err = s.err ∨ t.err = none) ∧ (t.ecmd = s.ecmd ∨ t.ecmd = 0#64) := by
  cases step_cases hstep with
  | idle | read | writeK | clearError | ignored => simp
  | reset _ h' =>
    rcases h' with h' | ⟨w, h'⟩ <;> cases h.symm.trans h'
    · exact absurd rfl hr
    · exact absurd rfl (hr' w)
  | illegal _ w _ h' | command _ w _ _ h' =>
    cases h.symm.trans h'
    exact absurd rfl (hc w)

end

/-- Settles O6. -/
theorem stepRunsDecodedCommand : Obligations.StepRunsDecodedCommand := by
  intro s w i rest hp he hd
  rw [step_command hp, cmdWrite_open (by exact he), execute_legal hd]

/-- Settles O9. -/
theorem errclrClearsTheLatch : Obligations.ErrclrClearsTheLatch :=
  fun s _ _ => ⟨step_write_errclr, hostRead_zero s (.inr (.inl rfl))⟩

/-- Settles O10: the register's new value is `setLimb` of the old one. -/
theorem kLimbWriteReplacesOneLimb : Obligations.KLimbWriteReplacesOneLimb :=
  fun s i j v _ => ⟨hostRead_addrK s i j, fun h => ⟨setLimb s.k[i] j v, setLimb_equation _ j v,
    limb_setLimb_same _ j v, fun _ hj => limb_setLimb_ne _ hj v, step_write_k h⟩⟩

/-- Settles O11. -/
theorem limbReadsGiveTheValue : Obligations.LimbReadsGiveTheValue := by
  intro s i
  simp only [hostRead_addrK, hostRead_addrMod, ← limbSum_eq, ← toNat_eq_limbSum, and_self]

/-- Settles O12, one clause a kind of access. -/
theorem portSideEffects : Obligations.PortSideEffects := by
  refine fun s rest => ⟨fun a h => step_read h, fun i j v h => ?_, fun w h => step_command h,
    fun v h => step_write_errclr h, fun a v ha h => step_write_ignored ha h,
    fun a ha => hostRead_zero s ha, fun ev t h => step_frame_of_not_command h⟩
  refine ⟨_, step_write_k h, ?_, fun j' hj => ?_, fun i' hi => ?_⟩
  · simp [limb_setLimb_same]
  · simp [limb_setLimb_ne _ hj]
  · exact (s.setK_get i i' _).trans (if_neg (Ne.symm hi))

/-! ### The fields of `STATUS` (R58) -/

theorem getElem_fv (s : State) (i : FIdx) : s.fv[i.val] = s.f[i].isSome := by
  fin_cases i <;> simp [State.fv, getElem_bitAt]

theorem getElem_qv (s : State) (i : QIdx) : s.qv[i.val] = s.q[i].isSome := by
  fin_cases i <;> simp [State.qv, getElem_bitAt]

/-- A bit of `STATUS` is a bit of the one field it lies in, or 0. -/
theorem getLsbD_statusWord (s : State) {n : Nat} (hn : n < 64) :
    s.statusWord.getLsbD n =
      (decide (n = 0) && s.eqFlag || !decide (n < 4) && s.errCode.getLsbD (n - 4) ||
        !decide (n < 8) && s.fv.getLsbD (n - 8) || !decide (n < 16) && s.qv.getLsbD (n - 16)) := by
  simp [State.statusWord, getElem_bitAt, getElem_fieldAt, hn]

theorem statusWord_eqFlag (s : State) : s.statusWord.getLsbD 0 = s.eqFlag := by
  rw [getLsbD_statusWord s (by decide)]
  simp

theorem statusWord_errCode (s : State) : s.statusWord.extractLsb' 4 4 = s.errCode := by
  apply BitVec.eq_of_getLsbD_eq
  intro n hn
  have h8 : 4 + n < 8 := by omega
  have h16 : 4 + n < 16 := by omega
  simp [hn, getLsbD_statusWord s (show 4 + n < 64 by omega), h8, h16]

theorem statusWord_fv (s : State) (i : FIdx) :
    s.statusWord.getLsbD (8 + i.val) = s.f[i].isSome := by
  have h16 : 8 + i.val < 16 := by omega
  have h4 : s.errCode.getLsbD (8 + i.val - 4) = false := BitVec.getLsbD_of_ge _ _ (by omega)
  simp [getLsbD_statusWord s (show 8 + i.val < 64 by omega), h4, h16, getElem_fv]

theorem statusWord_qv (s : State) (i : QIdx) :
    s.statusWord.getLsbD (16 + i.val) = s.q[i].isSome := by
  have h4 : s.errCode.getLsbD (16 + i.val - 4) = false := BitVec.getLsbD_of_ge _ _ (by omega)
  have h8 : s.fv.getLsbD (16 + i.val - 8) = false := BitVec.getLsbD_of_ge _ _ (by omega)
  simp [getLsbD_statusWord s (show 16 + i.val < 64 by omega), h4, h8, getElem_qv]

/-- Bits 3:1 lie in no field. -/
theorem statusWord_low_zero (s : State) : s.statusWord.extractLsb' 1 3 = 0#3 := by
  apply BitVec.eq_of_getLsbD_eq
  intro n hn
  have h4 : 1 + n < 4 := by omega
  have h8 : 1 + n < 8 := by omega
  have h16 : 1 + n < 16 := by omega
  simp [getLsbD_statusWord s (show 1 + n < 64 by omega), h4, h8, h16]

/-- Bits 63:20 lie above every field. -/
theorem statusWord_high_zero (s : State) : s.statusWord.extractLsb' 20 44 = 0#44 := by
  apply BitVec.eq_of_getLsbD_eq
  intro n hn
  have h4 : s.errCode.getLsbD (20 + n - 4) = false := BitVec.getLsbD_of_ge _ _ (by omega)
  have h8 : s.fv.getLsbD (20 + n - 8) = false := BitVec.getLsbD_of_ge _ _ (by omega)
  have h16 : s.qv.getLsbD (20 + n - 16) = false := BitVec.getLsbD_of_ge _ _ (by omega)
  simp [getLsbD_statusWord s (show 20 + n < 64 by omega), h4, h8, h16]

/-- Settles O13. -/
theorem statusFields : Obligations.StatusFields := by
  intro s
  refine ⟨hostRead_status s, hostRead_ecmd s, statusWord_eqFlag s, statusWord_low_zero s, ?_,
    statusWord_fv s, statusWord_qv s, statusWord_high_zero s⟩
  rw [statusWord_errCode, State.errCode]
  cases s.err with
  | none => rfl
  | some e => cases e <;> rfl

/-! ### `ERR` and `ECMD` together (R59, R194, R196) -/

theorem errorExplained_of_no_error {s : State} (he : s.err = none) :
    s.errorExplained = true ↔ s.ecmd = 0#64 := by
  simp [State.errorExplained, he]

theorem errorExplained_raise_command (s : State) {w : U64} {i : Instr} {e : CmdError}
    (hd : decode w = .ok i) (he : i.mayRaise e = true) : (s.raise e w).errorExplained = true := by
  simp [State.errorExplained, hd, he]

theorem errorExplained_raise_illegal (s : State) {w : U64} {r : Reject}
    (hd : decode w = .error r) : (s.raise .illegalCommand w).errorExplained = true := by
  simp [State.errorExplained, hd]

theorem Completes.err_ecmd {i : Instr} {s t : State} (hc : Completes i s t) :
    t.err = s.err ∧ t.ecmd = s.ecmd := by
  cases hc <;> exact ⟨rfl, rfl⟩

/-- A command run with no error pending leaves `ERR` and `ECMD` 0, or raises an error of its row of
R196 and records its own word, which decodes to it. -/
theorem exec_errorExplained {w : U64} {i : Instr} {s t : State} (he : s.err = none)
    (hd : decode w = .ok i) (h : s.errorExplained = true) (hx : exec i s = .next t) :
    t.errorExplained = true := by
  rcases exec_cases i s with ⟨u, hu, hc⟩ | ⟨e, hr, hu⟩
  · cases hu.symm.trans hx
    obtain ⟨herr, hecmd⟩ := hc.err_ecmd
    rw [errorExplained_of_no_error he] at h
    exact (errorExplained_of_no_error (herr.trans he)).mpr (hecmd.trans h)
  · cases hu.symm.trans hx
    rw [← eq_commandWord_of_decode hd]
    exact errorExplained_raise_command s hd hr

/-- Settles O19: a command and an illegal word run only while `ERR` is 0, the latch is cleared whole,
and no other event touches `ERR` or `ECMD`. -/
theorem stepKeepsErrorExplained : Obligations.StepKeepsErrorExplained := by
  intro s t h hstep
  cases step_cases hstep with
  | idle | read | writeK | ignored => exact h
  | clearError | reset => rfl
  | illegal _ _ _ _ _ hd => exact errorExplained_raise_illegal _ hd
  | command rest _ _ _ _ he hd hx =>
    exact exec_errorExplained (s := { s with pending := rest, rsp := none }) he hd h hx

end Sys2Proof.Machine
end

section
/-! PROOFS. The encoder and the decoder: the mask column of R84 against the operand classes of R82 and
R86, the one row that selects a legal word, the round trips, what an illegal word does, and the
pseudo-instructions (30_encoding.md). -/

namespace Sys2Proof.Machine

/-! ### A word is its fields (R81) -/

theorem eq_of_fields {v w : BitVec 32} (hop : opcodeField v = opcodeField w)
    (hrd : rdField v = rdField w) (hrs1 : rs1Field v = rs1Field w) (hrs2 : rs2Field v = rs2Field w)
    (hlow : v.extractLsb' 0 12 = w.extractLsb' 0 12) : v = w := by
  simp only [opcodeField, rdField, rs1Field, rs2Field, ← BitVec.toNat_inj,
    BitVec.extractLsb'_toNat, Nat.shiftRight_eq_div_pow] at *
  omega

/-- `Row.selects_fields` with its converse: the five fields make up the whole word. -/
theorem selects_iff_fields (r : Row) (w : BitVec 32) : r.selects w = true ↔
    opcodeField w &&& opcodeField r.mask = opcodeField r.pattern ∧
      rdField w &&& rdField r.mask = rdField r.pattern ∧
      rs1Field w &&& rs1Field r.mask = rs1Field r.pattern ∧
      rs2Field w &&& rs2Field r.mask = rs2Field r.pattern ∧
      w.extractLsb' 0 12 &&& r.mask.extractLsb' 0 12 = r.pattern.extractLsb' 0 12 := by
  refine ⟨Row.selects_fields, fun ⟨hop, hrd, hrs1, hrs2, hlow⟩ => ?_⟩
  simp only [opcodeField, rdField, rs1Field, rs2Field, ← BitVec.extractLsb'_and] at *
  exact beq_iff_eq.mpr (eq_of_fields hop hrd hrs1 hrs2 hlow)

/-! ### The mask column read from the operand classes (R82, R84) -/

/-- The bits of a field that are 0 in every value its class admits. -/
def fixedBits (c : RegClass) : BitVec 4 :=
  match c with
  | .k => 12#4
  | .f => 8#4
  | .q => 12#4
  | .unused => 15#4

theorem admits_eq (c : RegClass) (x : BitVec 4) : c.admits x = (x &&& fixedBits c == 0#4) := by
  cases c <;> revert x <;> decide

/-- The columns of a row say what the shape says: the pattern is the opcode alone, and the mask has
the opcode, the bits each class fixes and, in the R-format, bits 11:0. -/
def columnsAgree (r : Row) (sh : Shape) : Bool :=
  opcodeField r.mask == .allOnes 8 &&
    rdField r.mask == fixedBits sh.rd && rdField r.pattern == 0#4 &&
    rs1Field r.mask == fixedBits sh.rs1 && rs1Field r.pattern == 0#4 &&
    rs2Field r.mask == (if sh.format = .i then 0#4 else fixedBits sh.rs2) &&
    rs2Field r.pattern == 0#4 &&
    r.mask.extractLsb' 0 12 == (if sh.format = .i then 0#12 else .allOnes 12) &&
    r.pattern.extractLsb' 0 12 == 0#12

/-- Every row of R84 agrees with the classes that R86 checks for its opcode. -/
theorem table_columnsAgree :
    ∀ r ∈ opcodeTable, (shapeOf (opcodeField r.pattern)).any (columnsAgree r) = true := by
  decide

theorem shape_of_row {r : Row} (hr : r ∈ opcodeTable) :
    ∃ sh, shapeOf (opcodeField r.pattern) = some sh ∧ columnsAgree r sh = true :=
  Option.any_eq_true _ _ |>.mp (table_columnsAgree r hr)

/-- Every opcode that R86 counts as assigned has a row. -/
theorem row_of_shape : ∀ op : BitVec 8, (shapeOf op).isSome = true →
    ∃ r ∈ opcodeTable, opcodeField r.pattern = op := by
  decide +kernel

theorem opcodes_nodup : (opcodeTable.map fun r => opcodeField r.pattern).Nodup := by decide

/-! ### Selecting a row is passing the class checks -/

theorem wordWellFormed_of_shape {w : BitVec 32} {sh : Shape}
    (h : shapeOf (opcodeField w) = some sh) :
    wordWellFormed w = (sh.fieldsInClass w && sh.lowBitsZero w) := by
  rw [wordWellFormed, ← opcodeField, h]

/-- A row selects exactly the legal words of its opcode. -/
theorem selects_iff_wordWellFormed {r : Row} (hr : r ∈ opcodeTable) (w : BitVec 32) :
    r.selects w = true ↔ opcodeField w = opcodeField r.pattern ∧ wordWellFormed w = true := by
  obtain ⟨sh, hsh, hcol⟩ := shape_of_row hr
  simp only [columnsAgree, Bool.and_eq_true, beq_iff_eq, and_assoc] at hcol
  obtain ⟨hop, hrd, hrd', hrs1, hrs1', hrs2, hrs2', hlow, hlow'⟩ := hcol
  rw [selects_iff_fields, hop, BitVec.and_allOnes, hrd, hrd', hrs1, hrs1', hrs2, hrs2', hlow, hlow']
  refine and_congr_right fun h => ?_
  rw [wordWellFormed_of_shape (h ▸ hsh)]
  simp only [Shape.fieldsInClass, Shape.lowBitsZero, admits_eq, rdField, rs1Field, rs2Field]
  have hall : w.extractLsb' 0 12 &&& 4095#12 = w.extractLsb' 0 12 := BitVec.and_allOnes
  cases sh.format <;> simp [and_assoc, hall]

theorem wordWellFormed_iff_selected (w : BitVec 32) :
    wordWellFormed w = true ↔ ∃ r ∈ opcodeTable, r.selects w = true := by
  refine ⟨fun h => ?_, fun ⟨r, hr, hs⟩ => ((selects_iff_wordWellFormed hr w).mp hs).2⟩
  cases hsh : shapeOf (opcodeField w) with
  | none =>
    rw [wordWellFormed, ← opcodeField, hsh] at h
    cases h
  | some sh =>
    obtain ⟨r, hr, hop⟩ := row_of_shape (opcodeField w) (by rw [hsh]; rfl)
    exact ⟨r, hr, (selects_iff_wordWellFormed hr w).mpr ⟨hop.symm, h⟩⟩

/-- The rows differ in their opcodes, so no two of them select one word (R87). -/
theorem row_unique {r r' : Row} {w : BitVec 32} (hr : r ∈ opcodeTable) (hr' : r' ∈ opcodeTable)
    (hs : r.selects w = true) (hs' : r'.selects w = true) : r = r' := by
  obtain ⟨hop, -⟩ := (selects_iff_wordWellFormed hr w).mp hs
  obtain ⟨hop', -⟩ := (selects_iff_wordWellFormed hr' w).mp hs'
  exact List.inj_on_of_nodup_map opcodes_nodup hr hr' (hop.symm.trans hop')

/-! ### What the decoder answers -/

theorem decodeWord_of_selects {r : Row} {w : BitVec 32} (hr : r ∈ opcodeTable)
    (hs : r.selects w = true) : decodeWord w = some (r.build w) := by
  rw [decodeWord]
  cases hf : opcodeTable.find? (fun r => r.selects w) with
  | none => exact absurd hs (List.find?_eq_none.mp hf r hr)
  | some r' =>
    have hs' : r'.selects w = true := List.find?_some (p := (Row.selects · w)) hf
    rw [row_unique (List.mem_of_find?_eq_some hf) hr hs' hs, Option.map_some]

theorem decode_of_selects {r : Row} {w : U64} (hup : w.extractLsb' 32 32 = 0#32)
    (hr : r ∈ opcodeTable) (hs : r.selects (w.setWidth 32) = true) :
    decode w = .ok (r.build (w.setWidth 32)) := by
  rw [decode, if_neg (not_not.mpr hup), decodeWord_of_selects hr hs]

theorem decode_ok_iff_selected (w : U64) : (∃ i, decode w = .ok i) ↔
    w.extractLsb' 32 32 = 0#32 ∧ ∃ r ∈ opcodeTable, r.selects (w.setWidth 32) = true := by
  refine ⟨fun ⟨i, h⟩ => ?_, fun ⟨hup, r, hr, hs⟩ => ⟨_, decode_of_selects hup hr hs⟩⟩
  rw [decode] at h
  split at h
  · cases h
  · next hup =>
    cases hf : opcodeTable.find? (fun r => r.selects (w.setWidth 32)) with
    | none => rw [decodeWord, hf] at h; cases h
    | some r =>
      exact ⟨not_not.mp hup, r, List.mem_of_find?_eq_some hf,
        List.find?_some (p := (Row.selects · (w.setWidth 32))) hf⟩

theorem wellFormed_iff (w : U64) : wellFormed w = true ↔
    w.extractLsb' 32 32 = 0#32 ∧ wordWellFormed (w.setWidth 32) = true := by
  rw [wellFormed, upperHalfZero, Bool.and_eq_true, beq_iff_eq]

/-- Settles O4: a row selects a word when the word has its opcode and passes the checks of its
classes, and every assigned opcode has a row. -/
theorem legalWordsAreTheClassChecked : Obligations.LegalWordsAreTheClassChecked := by
  intro w
  rw [decode_ok_iff_selected, wellFormed_iff, wordWellFormed_iff_selected]

/-- Settles O2. -/
theorem decodeThenEncode : Obligations.DecodeThenEncode := fun _ _ => eq_commandWord_of_decode

theorem decode_error_of_not_ok {w : U64} (h : ¬ ∃ i, decode w = .ok i) :
    ∃ r, decode w = .error r := by
  cases hd : decode w with
  | ok i => exact absurd ⟨i, hd⟩ h
  | error r => exact ⟨r, rfl⟩

/-- At most one position of the table selects a word. -/
theorem row_index_unique {w : BitVec 32} {m n : Fin opcodeTable.length}
    (hm : opcodeTable[m].selects w = true) (hn : opcodeTable[n].selects w = true) : m = n :=
  Fin.ext ((opcodes_nodup.of_map _).getElem_inj_iff.mp
    (row_unique (List.getElem_mem _) (List.getElem_mem _) hm hn))

/-- Settles O3: the decoder answers when a row selects the word, and the rows' opcodes are distinct. -/
theorem oneRowMatchesOrIllegal : Obligations.OneRowMatchesOrIllegal := by
  intro w
  by_cases h : ∃ i, decode w = .ok i
  · obtain ⟨hup, r, hr, hs⟩ := (decode_ok_iff_selected w).mp h
    obtain ⟨n, rfl⟩ := List.mem_iff_get.mp hr
    exact .inl ⟨h, hup, n, hs, fun m hm => row_index_unique hm hs⟩
  · refine .inr ⟨decode_error_of_not_ok h, ?_⟩
    by_contra hnone
    push Not at hnone
    obtain ⟨hup, n, hs⟩ := hnone
    exact h ((decode_ok_iff_selected w).mpr ⟨hup, _, List.getElem_mem _, by simpa using hs⟩)

/-- Settles O7: the class checks fail exactly when the decoder refuses. -/
theorem illegalWordRaises : Obligations.IllegalWordRaises := by
  intro s w rest hp he hw
  have hno : ¬ ∃ i, decode w = .ok i := by
    rw [legalWordsAreTheClassChecked w, hw]
    exact Bool.false_ne_true
  obtain ⟨r, hr⟩ := decode_error_of_not_ok hno
  rw [step_command hp, cmdWrite_open (by exact he), execute_illegal hr]
  rfl

/-! ### The word of every command decodes to it -/

/-- A legal command whose opcode is that of row n decodes to itself when the row builds it from its
word, which is reading back each operand's field. -/
theorem decode_of_row {i : Instr} {op : BitVec 8} (n : Nat)
    (hl : Laws.Legal.Statement i) (hop : opcodeField (encode i) = op)
    (hn : n < opcodeTable.length := by decide)
    (hpat : opcodeField opcodeTable[n].pattern = op := by rfl)
    (hb : opcodeTable[n].build (encode i) = i := by
      simp [encode, opcodeTable, moveRows, fieldRows, pointRows]) :
    decode (commandWord i) = .ok i := by
  obtain ⟨hup, hw⟩ := (wellFormed_iff _).mp hl
  have hr := List.getElem_mem hn
  rw [lowHalf_commandWord] at hw
  have hs := (selects_iff_wordWellFormed hr (encode i)).mpr ⟨hop.trans hpat.symm, hw⟩
  rw [← lowHalf_commandWord] at hs
  rw [decode_of_selects hup hr hs, lowHalf_commandWord, hb]

/-- Settles O1: each command's word is legal and has the opcode of one row, which reads its operands
back. -/
theorem encodeThenDecode : Obligations.EncodeThenDecode := by
  intro i
  cases i with
  | modld ks => exact decode_of_row 0 (Laws.Legal.modld ..) (opcodeField_rFormat ..)
  | fld fd ks => exact decode_of_row 1 (Laws.Legal.fld ..) (opcodeField_rFormat ..)
  | fst kd fs => exact decode_of_row 2 (Laws.Legal.fst ..) (opcodeField_rFormat ..)
  | fseti fd imm => exact decode_of_row 3 (Laws.Legal.fseti ..) (opcodeField_iFormat ..)
  | pld qd ksx ksy => exact decode_of_row 4 (Laws.Legal.pld ..) (opcodeField_rFormat ..)
  | pstx kd qs => exact decode_of_row 5 (Laws.Legal.pstx ..) (opcodeField_rFormat ..)
  | psty kd qs => exact decode_of_row 6 (Laws.Legal.psty ..) (opcodeField_rFormat ..)
  | fadd fd fs1 fs2 => exact decode_of_row 7 (Laws.Legal.fadd ..) (opcodeField_rFormat ..)
  | fsub fd fs1 fs2 => exact decode_of_row 8 (Laws.Legal.fsub ..) (opcodeField_rFormat ..)
  | fneg fd fs1 => exact decode_of_row 9 (Laws.Legal.fneg ..) (opcodeField_rFormat ..)
  | fmul fd fs1 fs2 => exact decode_of_row 10 (Laws.Legal.fmul ..) (opcodeField_rFormat ..)
  | fscl fd fs1 ks2 => exact decode_of_row 11 (Laws.Legal.fscl ..) (opcodeField_rFormat ..)
  | fscli fd fs1 imm => exact decode_of_row 12 (Laws.Legal.fscli ..) (opcodeField_iFormat ..)
  | fdiv fd fs1 fs2 => exact decode_of_row 13 (Laws.Legal.fdiv ..) (opcodeField_rFormat ..)
  | fexp fd fs1 ks2 => exact decode_of_row 14 (Laws.Legal.fexp ..) (opcodeField_rFormat ..)
  | feq fs1 fs2 => exact decode_of_row 15 (Laws.Legal.feq ..) (opcodeField_rFormat ..)
  | pidn qd => exact decode_of_row 16 (Laws.Legal.pidn ..) (opcodeField_rFormat ..)
  | pgen qd => exact decode_of_row 17 (Laws.Legal.pgen ..) (opcodeField_rFormat ..)
  | padd qd qs1 qs2 => exact decode_of_row 18 (Laws.Legal.padd ..) (opcodeField_rFormat ..)
  | pneg qd qs1 => exact decode_of_row 19 (Laws.Legal.pneg ..) (opcodeField_rFormat ..)
  | psub qd qs1 qs2 => exact decode_of_row 20 (Laws.Legal.psub ..) (opcodeField_rFormat ..)
  | peq qs1 qs2 => exact decode_of_row 21 (Laws.Legal.peq ..) (opcodeField_rFormat ..)

/-- Settles O5. -/
theorem publishedWordsDecode : Obligations.PublishedWordsDecode := by
  unfold Obligations.PublishedWordsDecode
  decide +kernel

/-! ### Pseudo-instructions (R93) -/

theorem run_succ_of_step {s t : State} (h : step s = .next t) (n : Nat) :
    Host.Core.run core (n + 1) s = Host.Core.run core n t := by
  have hcore : core.step s = .next t := h
  simp only [Host.Core.run, hcore]

/-- A value is determined by its four limbs. -/
theorem eq_of_limb {v v' : U256} (h : limb v = limb v') : v = v' := by
  rw [← BitVec.toNat_inj, toNat_eq_limbSum, h, ← toNat_eq_limbSum]

/-- Writing the four limbs of v leaves nothing of the old value. -/
theorem setLimb_all (u v : U256) :
    setLimb (setLimb (setLimb (setLimb u 0 (limb v 0)) 1 (limb v 1)) 2 (limb v 2)) 3 (limb v 3) =
      v := by
  apply eq_of_limb
  funext j
  simp only [limb_setLimb]
  fin_cases j <;> simp [Function.update]

/-- Settles O59: each of the four steps writes one limb. -/
theorem kliLoadsARawRegister : Obligations.KliLoadsARawRegister := by
  intro s i v rest hp
  refine (run_succ_of_step (step_write_k hp) 3).trans ?_
  refine (run_succ_of_step (step_write_k rfl) 2).trans ?_
  refine (run_succ_of_step (step_write_k rfl) 1).trans ?_
  refine (run_succ_of_step (step_write_k rfl) 0).trans ?_
  simp [Host.Core.run, setLimb_all]

theorem literal_zero : literal 0#16 = .ok 0#256 := by decide

theorem literal_one : literal 1#16 = .ok 1#256 := by decide

theorem rem_of_lt {x p : U256} (h : x.toNat < p.toNat) : rem x.toNat p = x := by
  rw [rem, Nat.mod_eq_of_lt h, BitVec.ofNat_toNat, BitVec.setWidth_eq]

theorem fscale_one {a p : U256} (h : a.toNat < p.toNat) : fscale a 1#256 p = a := by
  rw [fscale, u256Mulw_toNat]
  exact (congrArg (fun x => rem x p) (Nat.mul_one _)).trans (rem_of_lt h)

/-- Settles O60: the literals are 0 and 1, and a canonical residue times 1 is itself. -/
theorem fieldPseudoInstructions : Obligations.FieldPseudoInstructions := by
  rintro fd s ⟨hmod, hf, -, -⟩
  refine ⟨?_, ⟨rem 1 s.modulus, rem_toNat 1 hmod, ?_⟩, fun fs a ha => ?_⟩
  · have h0 : rem 0 s.modulus = 0#256 := rem_of_lt (x := 0#256) hmod
    simp [fzero, exec, execFseti, literal_zero, h0, State.setF]
  · simp [fone, exec, execFseti, literal_one, State.setF]
  · simp [fmov, exec, execFscli, literal_one, State.fSource_valid ha, fscale_one (hf fs a ha),
      State.setF]

end Sys2Proof.Machine
end

section
/-! PROOFS. The exact integer meaning of the Unsigned256 datapath primitive
(40_u256_primitive.md R101 to R109). -/

namespace Sys2Proof.Machine

/-! ### The wraparound operations, the bits and the order (R101 to R107) -/

@[simp] theorem u256Add_toNat (a b : U256) :
    (u256Add a b).toNat = (a.toNat + b.toNat) % 2 ^ 256 := BitVec.toNat_add a b

/-- Wraparound subtraction is the integer difference reduced modulo `2^256`. -/
theorem u256Sub_toNat (a b : U256) :
    ((u256Sub a b).toNat : Int) = ((a.toNat : Int) - b.toNat) % 2 ^ 256 := by
  have hb : b.toNat < 2 ^ 256 := b.isLt
  rw [u256Sub, BitVec.toNat_sub]
  omega

@[simp] theorem u256Shl_toNat (a : U256) (n : Fin 256) :
    (u256Shl a n).toNat = a.toNat * 2 ^ n.val % 2 ^ 256 := by
  rw [u256Shl, BitVec.toNat_shiftLeft, Nat.shiftLeft_eq]

@[simp] theorem u256Shr_toNat (a : U256) (n : Fin 256) :
    (u256Shr a n).toNat = a.toNat / 2 ^ n.val := by
  rw [u256Shr, BitVec.toNat_ushiftRight, Nat.shiftRight_eq_div_pow]

/-- The tested bit as a number. -/
theorem u256Bit_toNat (a : U256) (i : Fin 256) :
    (u256Bit a i).toNat = a.toNat / 2 ^ i.val % 2 := Nat.toNat_testBit a.toNat i.val

@[simp] theorem u256Bit_u256And (a b : U256) (i : Fin 256) :
    u256Bit (u256And a b) i = (u256Bit a i && u256Bit b i) := BitVec.getLsbD_and

@[simp] theorem u256Lt_iff (a b : U256) : u256Lt a b = true ↔ a.toNat < b.toNat :=
  decide_eq_true_iff

/-! ### The count of leading zeros (R108) -/

/-- The count stops at a set bit. -/
theorem clzBelow_succ_of_set {a : U256} {i : Nat} (h : a.getLsbD i = true) :
    clzBelow a (i + 1) = 0 := by
  simp [clzBelow, h]

/-- Each clear bit above position `m` adds one to the count below `m`. -/
theorem clzBelow_add_of_clear {a : U256} {m : Nat} :
    ∀ k : Nat, (∀ j, m ≤ j → j < m + k → a.getLsbD j = false) →
      clzBelow a (m + k) = clzBelow a m + k
  | 0, _ => rfl
  | k + 1, h => by
    have htop : a.getLsbD (m + k) = false := h (m + k) (by omega) (by omega)
    have ih : clzBelow a (m + k) = clzBelow a m + k :=
      clzBelow_add_of_clear k fun j hm hj => h j hm (by omega)
    rw [← Nat.add_assoc, clzBelow, htop, ih]
    simp [Nat.add_assoc]

theorem u256Clz_zero : u256Clz 0#256 = 256 :=
  clzBelow_add_of_clear (m := 0) 256 fun _ _ _ => BitVec.getLsbD_zero

/-- The highest set bit fixes the count of the zeros above it. -/
theorem u256Clz_of_highest {a : U256} {i : Fin 256} (hset : u256Bit a i = true)
    (hclear : ∀ j : Fin 256, i < j → u256Bit a j = false) : u256Clz a = 255 - i.val := by
  have hwidth : i.val + 1 + (255 - i.val) = 256 := by omega
  have hcount := clzBelow_add_of_clear (a := a) (m := i.val + 1) (255 - i.val)
    fun j hi hj => hclear ⟨j, by omega⟩ hi
  rwa [hwidth, clzBelow_succ_of_set hset, Nat.zero_add] at hcount

/-- Settles O28. -/
theorem primitiveArithmetic : Obligations.PrimitiveArithmetic := fun a b =>
  ⟨u256Add_toNat a b, u256Sub_toNat a b,
    fun n => ⟨u256Shl_toNat a n, u256Shr_toNat a n, u256Bit_toNat a n, u256Bit_u256And a b n⟩,
    u256Lt_iff a b, u256Clz_zero, fun _ => u256Clz_of_highest, u256Mulw_toNat a b⟩

end Sys2Proof.Machine
end

section
/-! PROOFS. The construction and move commands (41_move.md). -/

namespace Sys2Proof.Machine

/-! ### A valid source and a literal -/

theorem retire_fSource_valid {i : Instr} {s : State} {r : FIdx} {a : U256}
    {g : U256 → Except CmdError State} (h : s.f[r] = some a) :
    retire i s (s.fSource r >>= g) = retire i s (g a) := by
  rw [State.fSource_valid h, ok_bind]

theorem retire_qSource_valid {i : Instr} {s : State} {r : QIdx} {p : Point}
    {g : Point → Except CmdError State} (h : s.q[r] = some p) :
    retire i s (s.qSource r >>= g) = retire i s (g p) := by
  rw [State.qSource_valid h, ok_bind]

/-- Bit 15 is the sign of the literal: clear, the literal is the field read as it stands (R85). -/
theorem literal_of_sign_clear {imm : BitVec 16} (h : imm.getLsbD 15 = false) :
    ∃ v : U256, literal imm = .ok v ∧ v.toNat = imm.toNat := by
  have hint : imm.toInt = imm.toNat := BitVec.toInt_eq_toNat_of_msb h
  obtain ⟨v, hv, hval⟩ := literal_nonneg (imm := imm) (by omega)
  exact ⟨v, hv, by omega⟩

theorem literal_of_sign_set {imm : BitVec 16} (h : imm.getLsbD 15 = true) :
    literal imm = .error .representationOverflow :=
  literal_negative (BitVec.toInt_neg_of_msb_true h)

/-! ### The commands -/

/-- Settles O34: bit 15 decides whether the literal is a value, which is then reduced modulo `MOD`. -/
theorem fsetiConvertsOrRaises : Obligations.FsetiConvertsOrRaises := by
  refine fun fd imm s => ⟨fun hclear hmod => ?_, fun hset => ?_⟩
  · obtain ⟨v, hlit, hval⟩ := literal_of_sign_clear hclear
    refine ⟨rem v.toNat s.modulus, by rw [rem_toNat _ hmod, hval], ?_⟩
    simp only [exec, execFseti, hlit, ok_bind]
    rfl
  · simp only [exec, execFseti, literal_of_sign_set hset]
    rfl

/-- Settles O31: MODLD tests the raw value before it writes. -/
theorem modldLoadsOrRaises : Obligations.ModldLoadsOrRaises := by
  refine fun ks s => ⟨fun hne => ?_, fun hzero => ?_⟩
  · exact congrArg (retire (.modld ks) s) (if_neg hne)
  · exact congrArg (retire (.modld ks) s) (if_pos hzero)

/-- Settles O32. -/
theorem fldReduces : Obligations.FldReduces := fun _ ks s hmod =>
  ⟨rem s.k[ks].toNat s.modulus, rem_toNat _ hmod, rfl⟩

/-- Settles O33: the source is either valid, and copied, or raises. -/
theorem fstCopies : Obligations.FstCopies := fun _ fs _ =>
  ⟨fun _ hvalid => retire_fSource_valid hvalid,
    fun hinvalid => exec_fSource_invalid ⟨fs, List.mem_singleton_self fs, hinvalid⟩⟩

theorem rem_p25519_toNat (x : Nat) : (rem x p25519).toNat = x % (2 ^ 255 - 19) := by
  rw [rem_toNat x p25519_pos, p25519_toNat]

/-- Settles O35: the modulus of the reduction is the constant `P25519`, which is legal. -/
theorem pldReduces : Obligations.PldReduces := fun _ ksx ksy s =>
  ⟨pointOfRaw s.k[ksx] s.k[ksy], rem_p25519_toNat _, rem_p25519_toNat _, rfl⟩

/-- Settles O36: the source is either valid, and one coordinate of it copied, or raises. -/
theorem pstxPstyCopy : Obligations.PstxPstyCopy := by
  refine fun kd qs s => ⟨fun p hvalid => ?_, fun hinvalid => ?_⟩
  · exact ⟨retire_qSource_valid hvalid, retire_qSource_valid hvalid⟩
  · have hsrc : ∃ r ∈ [qs], s.q[r] = none := ⟨qs, List.mem_singleton_self qs, hinvalid⟩
    exact ⟨exec_qSource_invalid hsrc, exec_qSource_invalid hsrc⟩

end Sys2Proof.Machine
end

section
/-! PROOFS. The source's reference algorithms and the field commands (42_field.md). -/

namespace Sys2Proof.Machine

/-! ### Residues as elements of `ZMod P` -/

theorem rem_cast (x : Nat) {p : U256} (hp : 1 ≤ p.toNat) :
    ((rem x p).toNat : ZMod p.toNat) = x := by
  rw [rem_toNat x hp, ZMod.natCast_mod]

/-- Below the modulus an element of `ZMod P` is its representative. -/
theorem eq_mod_of_cast {x y n : Nat} (hx : x < n) (h : (x : ZMod n) = y) : x = y % n := by
  rw [← (ZMod.natCast_eq_natCast_iff' x y n).mp h, Nat.mod_eq_of_lt hx]

/-! ### The bits the loops run over (R108, R147, R148) -/

/-- The low `n + 1` bits of a, from the low n and the next one. -/
theorem mod_two_pow_succ (a : U256) (n : Nat) :
    a.toNat % 2 ^ (n + 1) = a.toNat % 2 ^ n + 2 ^ n * (a.getLsbD n).toNat := by
  rw [Nat.mod_pow_succ, ← BitVec.testBit_toNat, Nat.toNat_testBit]

theorem mod_two_pow_succ_u256Bit (a : U256) {i : Nat} (h : i < 256) :
    a.toNat % 2 ^ (i + 1) = a.toNat % 2 ^ i + 2 ^ i * (u256Bit a ⟨i, h⟩).toNat :=
  mod_two_pow_succ a i

theorem clzBelow_lt (a : U256) : ∀ n : Nat, a.toNat % 2 ^ n < 2 ^ (n - clzBelow a n)
  | 0 => by simp [clzBelow, Nat.mod_one]
  | n + 1 => by
    cases hbit : a.getLsbD n with
    | true =>
      rw [clzBelow_succ_of_set hbit]
      exact Nat.mod_lt _ (by positivity)
    | false => simpa [clzBelow, mod_two_pow_succ, hbit] using clzBelow_lt a n

/-- The bits at positions below `bitlen a` are all of a. -/
theorem mod_bitlen (a : U256) : a.toNat % 2 ^ bitlen a = a.toNat := by
  have h : a.toNat % 2 ^ 256 < 2 ^ bitlen a := clzBelow_lt a 256
  rw [Nat.mod_eq_of_lt a.isLt] at h
  exact Nat.mod_eq_of_lt h

/-! ### The bit-serial multiply (R147) -/

theorem mulmodLoop_lt (n m : U256) {p : U256} (hp : 1 ≤ p.toNat) :
    ∀ (i : Nat) (h : i ≤ 256) (acc : U256), acc.toNat < p.toNat →
      (mulmodLoop n m p i h acc).toNat < p.toNat
  | 0, _, _, hacc => hacc
  | i + 1, h, acc, _ => by
    rw [mulmodLoop]
    refine mulmodLoop_lt n m hp i _ _ ?_
    split <;> exact rem_lt _ hp

/-- With i bits of m to go, the accumulator counts `2^i` times. -/
theorem mulmodLoop_cast (n m : U256) {p : U256} (hp : 1 ≤ p.toNat) :
    ∀ (i : Nat) (h : i ≤ 256) (acc : U256),
      ((mulmodLoop n m p i h acc).toNat : ZMod p.toNat) =
        acc.toNat * 2 ^ i + n.toNat * (m.toNat % 2 ^ i : Nat)
  | 0, _, _ => by simp [mulmodLoop, Nat.mod_one]
  | i + 1, h, acc => by
    rw [mulmodLoop, mulmodLoop_cast n m hp i, mod_two_pow_succ_u256Bit m h]
    cases u256Bit m ⟨i, h⟩ <;> simp [rem_cast _ hp] <;> ring

/-- Settles O29: the loop runs over all bits of m from an accumulator of 0. -/
theorem serialMultiplyIsProduct : Obligations.SerialMultiplyIsProduct := by
  intro n m p hn
  have hp : 1 ≤ p.toNat := by omega
  refine eq_mod_of_cast (mulmodLoop_lt n m hp _ _ _ hp) ?_
  refine (mulmodLoop_cast n m hp (bitlen m) _ 0#256).trans ?_
  rw [mod_bitlen]
  simp

/-! ### Square and multiply (R148) -/

/-- With i bits of e to go, the accumulator is squared i times. -/
theorem powmodLoop_cast (a e : U256) {p : U256} (hp : 1 ≤ p.toNat) :
    ∀ (i : Nat) (h : i ≤ 256) (acc : U256),
      ((powmodLoop a e p i h acc).toNat : ZMod p.toNat) =
        acc.toNat ^ 2 ^ i * a.toNat ^ (e.toNat % 2 ^ i)
  | 0, _, _ => by simp [powmodLoop, Nat.mod_one]
  | i + 1, h, acc => by
    rw [powmodLoop, powmodLoop_cast a e hp i, mod_two_pow_succ_u256Bit e h]
    cases u256Bit e ⟨i, h⟩ <;> simp [rem_cast _ hp] <;> ring

/-- Settles O30: the loop runs over all bits of e from an accumulator of `1 mod P`. -/
theorem squareAndMultiplyIsPower : Obligations.SquareAndMultiplyIsPower := by
  intro a e p hp
  refine eq_mod_of_cast (powmodLoop_lt a e hp _ _ _ (rem_lt 1 hp)) ?_
  refine (powmodLoop_cast a e hp (bitlen e) _ (rem 1 p)).trans ?_
  rw [rem_cast 1 hp, mod_bitlen]
  simp

theorem fpow_toNat (a e : U256) {p : U256} (hp : 1 ≤ p.toNat) :
    (fpow a e p).toNat = a.toNat ^ e.toNat % p.toNat := squareAndMultiplyIsPower a e p hp

/-! ### Negation and division (R142, R143, R145) -/

theorem fsub_toInt (a : U256) {b p : U256} (hb : b.toNat < p.toNat) :
    ((fsub a b p).toNat : Int) = ((a.toNat : Int) + p.toNat - b.toNat) % p.toNat := by
  rw [fsub_toNat a b (by omega), Int.natCast_mod, Nat.cast_sub (by omega), Nat.cast_add]

theorem fneg_toInt {a p : U256} (ha : a.toNat < p.toNat) :
    ((fneg a p).toNat : Int) = ((p.toNat : Int) - a.toNat) % p.toNat := by
  rw [fneg_toNat a (by omega), Int.natCast_mod, Nat.cast_sub ha.le]

theorem fneg_fneg {a p : U256} (ha : a.toNat < p.toNat) : fneg (fneg a p) p = a := by
  have hp : 1 ≤ p.toNat := by omega
  apply BitVec.eq_of_toNat_eq
  rw [fneg_toNat _ hp, fneg_toNat _ hp]
  rcases Nat.eq_zero_or_pos a.toNat with h0 | hpos
  · simp [h0]
  · rw [Nat.mod_eq_of_lt (show p.toNat - a.toNat < p.toNat by omega),
      Nat.sub_sub_self ha.le, Nat.mod_eq_of_lt ha]

theorem pneg_pneg {p : Point} (h : p.x.toNat < p25519.toNat) : pneg (pneg p) = p := by
  rw [pneg, pneg, fneg_fneg h]

theorem u256Sub_two_toNat {p : U256} (h : 2 < p.toNat) :
    (u256Sub p 2#256).toNat = p.toNat - 2 :=
  BitVec.toNat_sub_of_le (BitVec.le_def.mpr h.le)

/-- A division that completes gives the Fermat quotient. -/
theorem fdiv_ok {p : U256} (a : U256) {b : U256} (h : 2 < p.toNat) (hb : b ≠ 0#256) :
    ∃ v : U256, v.toNat = fermatQuotient a.toNat b.toNat p.toNat ∧ fdiv a b p = .ok v := by
  have hp : 1 ≤ p.toNat := by omega
  refine ⟨_, ?_, fdiv_nonzero h hb⟩
  rw [fmul_toNat _ _ hp, fpow_toNat _ _ hp, u256Sub_two_toNat h, Nat.mul_mod_mod, fermatQuotient]

/-- Fermat's little theorem: for a prime modulus the Fermat quotient is the quotient. -/
theorem fermatQuotient_mul {p a b : Nat} (hp : p.Prime) (ha : a < p) (hb : b < p) (h0 : b ≠ 0) :
    fermatQuotient a b p * b % p = a := by
  have : Fact p.Prime := ⟨hp⟩
  have hb' : (b : ZMod p) ≠ 0 := fun h =>
    Nat.not_dvd_of_pos_of_lt (Nat.pos_of_ne_zero h0) hb ((ZMod.natCast_eq_zero_iff b p).mp h)
  have hexp : p - 2 + 1 = p - 1 := by have := hp.two_le; omega
  refine (eq_mod_of_cast ha ?_).symm
  calc (a : ZMod p) = a * (b : ZMod p) ^ (p - 1) := by
        rw [ZMod.pow_card_sub_one_eq_one hb', mul_one]
    _ = ((fermatQuotient a b p * b : Nat) : ZMod p) := by
        rw [← hexp, pow_succ, fermatQuotient]
        push_cast [ZMod.natCast_mod]
        ring

/-! ### Registers and sources of the field commands -/

theorem State.setF_get_same (s : State) (i : FIdx) (v : U256) :
    (s.setF i v).f[i] = some v := (s.setF_get i i v).trans (if_pos rfl)

theorem State.setQ_get_same (s : State) (i : QIdx) (p : Point) :
    (s.setQ i p).q[i] = some p := (s.setQ_get i i p).trans (if_pos rfl)

theorem retire_fSource_fSource_valid {i : Instr} {s : State} {r r' : FIdx} {a b : U256}
    {g : U256 → U256 → Except CmdError State} (ha : s.f[r] = some a) (hb : s.f[r'] = some b) :
    retire i s (s.fSource r >>= fun x => s.fSource r' >>= g x) = retire i s (g a b) := by
  rw [retire_fSource_valid ha, retire_fSource_valid hb]

theorem exec_one_fSource_invalid {i : Instr} {s : State} {r : FIdx} (hi : i.fSources = [r])
    (h : s.f[r] = none) : exec i s = .next (s.raise .invalidRegister (commandWord i)) :=
  exec_fSource_invalid ⟨r, by simp [hi], h⟩

theorem exec_two_fSources_invalid {i : Instr} {s : State} {r r' : FIdx}
    (hi : i.fSources = [r, r']) (h : s.f[r] = none ∨ s.f[r'] = none) :
    exec i s = .next (s.raise .invalidRegister (commandWord i)) := by
  rcases h with h | h
  · exact exec_fSource_invalid ⟨r, by simp [hi], h⟩
  · exact exec_fSource_invalid ⟨r', by simp [hi], h⟩

/-! ### The commands -/

/-- Settles O37. -/
theorem faddAdds : Obligations.FaddAdds := fun _ _ _ s =>
  ⟨fun a b ⟨hmod, _⟩ ha hb =>
    ⟨fadd a b s.modulus, fadd_toNat a b hmod, retire_fSource_fSource_valid ha hb⟩,
    exec_two_fSources_invalid rfl⟩

/-- Settles O38: the subtrahend is below `MOD`, so the exact difference is not negative. -/
theorem fsubSubtracts : Obligations.FsubSubtracts := fun _ _ fs2 s =>
  ⟨fun a b ⟨_, hf, _⟩ ha hb =>
    ⟨fsub a b s.modulus, fsub_toInt a (hf fs2 b hb), retire_fSource_fSource_valid ha hb⟩,
    exec_two_fSources_invalid rfl⟩

/-- Settles O39. -/
theorem fnegNegates : Obligations.FnegNegates := fun _ fs1 s =>
  ⟨fun a ⟨_, hf, _⟩ ha =>
    ⟨fneg a s.modulus, fneg_toInt (hf fs1 a ha), retire_fSource_valid ha⟩,
    exec_one_fSource_invalid rfl⟩

/-- Settles O40. -/
theorem fmulMultiplies : Obligations.FmulMultiplies := fun _ _ _ s =>
  ⟨fun a b hmod ha hb =>
    ⟨fmul a b s.modulus, fmul_toNat a b hmod, retire_fSource_fSource_valid ha hb⟩,
    exec_two_fSources_invalid rfl⟩

/-- Settles O41. -/
theorem fsclScales : Obligations.FsclScales := fun _ _ ks2 s =>
  ⟨fun a hmod ha =>
    ⟨fscale a s.k[ks2] s.modulus, fscale_toNat a _ hmod, retire_fSource_valid ha⟩,
    exec_one_fSource_invalid rfl⟩

/-- Settles O42: the source is read before the literal. -/
theorem fscliScalesOrRaises : Obligations.FscliScalesOrRaises := by
  refine fun fd fs1 imm s => ⟨fun a ha => ?_, exec_one_fSource_invalid rfl⟩
  have hexec : exec (.fscli fd fs1 imm) s = retire (.fscli fd fs1 imm) s
      (literal imm >>= fun k => .ok (s.setF fd (fscale a k s.modulus))) := retire_fSource_valid ha
  refine ⟨fun hclear hmod => ?_, fun hset => ?_⟩
  · obtain ⟨k, hlit, hval⟩ := literal_of_sign_clear hclear
    refine ⟨fscale a k s.modulus, by rw [fscale_toNat a k hmod, hval], ?_⟩
    rw [hexec, hlit]
    rfl
  · rw [hexec, literal_of_sign_set hset]
    rfl

/-- FDIV of valid sources retires with what the division answers. -/
theorem exec_fdiv_valid {fd fs1 fs2 : FIdx} {s : State} {a b : U256} (ha : s.f[fs1] = some a)
    (hb : s.f[fs2] = some b) :
    exec (.fdiv fd fs1 fs2) s =
      retire (.fdiv fd fs1 fs2) s (fdiv a b s.modulus >>= fun v => .ok (s.setF fd v)) :=
  retire_fSource_fSource_valid ha hb

/-- Settles O43: the sources first, then the modulus, then the divisor. -/
theorem fdivDividesOrRaises : Obligations.FdivDividesOrRaises := by
  refine fun fd fs1 fs2 s => ⟨fun a b ha hb => ?_, exec_two_fSources_invalid rfl⟩
  rw [exec_fdiv_valid ha hb]
  refine ⟨fun hmod hne => ?_, fun hmod hzero => ?_, fun hmod => ?_⟩
  · obtain ⟨v, hval, hdiv⟩ := fdiv_ok a hmod hne
    exact ⟨v, hval, by rw [hdiv]; rfl⟩
  · rw [hzero, fdiv_zero hmod]
    rfl
  · rw [fdiv_small hmod]
    rfl

/-- Settles O44. -/
theorem fexpRaisesToPower : Obligations.FexpRaisesToPower := fun _ _ ks2 s =>
  ⟨fun a hmod ha =>
    ⟨fpow a s.k[ks2] s.modulus, fpow_toNat a _ hmod, retire_fSource_valid ha⟩,
    exec_one_fSource_invalid rfl⟩

/-- Settles O45: residues are equal when their integers are. -/
theorem feqCompares : Obligations.FeqCompares := by
  refine fun fs1 fs2 s => ⟨fun a b ha hb => ?_, exec_two_fSources_invalid rfl⟩
  have heq : (a == b) = decide (a.toNat = b.toNat) := by simp [BitVec.toNat_inj, beq_eq_decide]
  rw [← heq]
  exact retire_fSource_fSource_valid ha hb

/-! ### The laws of the commands (R144, R145, R151, R158, R177) -/

/-- Settles O46. -/
theorem fdivIsQuotientForPrimes : Obligations.FdivIsQuotientForPrimes := by
  rintro fd fs1 fs2 s a b hprime hmod ⟨hlegal, hf, -⟩ ha hb hne
  obtain ⟨v, hval, hexec⟩ := ((fdivDividesOrRaises fd fs1 fs2 s).1 a b ha hb).1 hmod hne
  have hb0 : b.toNat ≠ 0 := fun h => hne (BitVec.eq_of_toNat_eq h)
  refine ⟨v, ?_, ?_, hexec⟩
  · rw [hval]
    exact Nat.mod_lt _ hlegal
  · rw [hval]
    exact fermatQuotient_mul hprime (hf fs1 a ha) (hf fs2 b hb) hb0

/-- Settles O47: both commands write the residue of `a^(P-2)`. -/
theorem fexpByFermatExponentIsInverse : Obligations.FexpByFermatExponentIsInverse := by
  intro fd fs one ks s a hmod ha hne hone hk
  obtain ⟨v, hv, hexp⟩ := (fexpRaisesToPower fd fs ks s).1 a (by omega) ha
  obtain ⟨w, hw, hdiv⟩ := ((fdivDividesOrRaises fd one fs s).1 1#256 a hone ha).1 hmod hne
  have hvw : v = w := by
    apply BitVec.eq_of_toNat_eq
    rw [hv, hw, hk, fermatQuotient]
    simp
  exact ⟨_, hexp, hvw ▸ hdiv⟩

/-- Settles O48: the second command reads what the first has written. -/
theorem negationIsInvolution : Obligations.NegationIsInvolution := by
  rintro s ⟨-, hf, hq, -⟩
  refine ⟨fun fs fd fe a ha => ?_, fun qs qd qe p hp => ?_⟩
  · refine ⟨_, _, retire_fSource_valid ha, retire_fSource_valid (State.setF_get_same ..), ?_⟩
    rw [State.setF_get_same, State.setF_modulus, fneg_fneg (hf fs a ha)]
  · obtain ⟨hx, -⟩ := hq qs p hp
    refine ⟨_, _, retire_qSource_valid hp, retire_qSource_valid (State.setQ_get_same ..), ?_⟩
    rw [State.setQ_get_same, pneg_pneg hx]

/-- Reducing the multiplier first changes nothing (R144). -/
theorem fmul_rem (a k : U256) {p : U256} (hp : 1 ≤ p.toNat) :
    fmul a (rem k.toNat p) p = fscale a k p := by
  apply BitVec.eq_of_toNat_eq
  rw [fmul_toNat _ _ hp, rem_toNat _ hp, fscale_toNat _ _ hp, Nat.mul_mod_mod]

/-- Settles O49: FLD into another register leaves the source of FMUL as it was. -/
theorem fsclAgreesWithFldThenFmul : Obligations.FsclAgreesWithFldThenFmul := by
  intro fd fs ft ks s a hmod ha hne
  have hfs : (s.setF ft (rem s.k[ks].toNat s.modulus)).f[fs] = some a := by
    rw [State.setF_get, if_neg hne, ha]
  refine ⟨_, _, _, rfl, retire_fSource_fSource_valid hfs (State.setF_get_same ..),
    retire_fSource_valid ha, ?_⟩
  rw [State.setF_get_same, State.setF_modulus, fmul_rem a _ hmod]
  exact (State.setF_get_same ..).symm

end Sys2Proof.Machine
end

section
/-! PROOFS. The point commands: the addition law over the integers, the curve equation and the
completeness of the law in the field of `P25519` elements (43_point.md). -/

namespace Sys2Proof.Machine

/-! ### The terms of the addition law (R174) -/

theorem fadd_comm (a b p : U256) : fadd a b p = fadd b a p := by
  rw [fadd, fadd, Nat.add_comm]

theorem fmul_comm (a b p : U256) : fmul a b p = fmul b a p := by
  rw [fmul, fmul, u256Mulw_toNat, u256Mulw_toNat, Nat.mul_comm]

theorem crossTerm_toNat (d : U256) (p1 p2 : Point) :
    (crossTerm d p1 p2).toNat = crossTermNat d p1 p2 := by
  simp only [crossTerm, crossTermNat, fmul_toNat _ _ p25519_pos, Nat.mod_mul_mod]

theorem crossTermNat_comm (d : U256) (p1 p2 : Point) :
    crossTermNat d p1 p2 = crossTermNat d p2 p1 := by
  rw [crossTermNat, crossTermNat, Nat.mul_right_comm d.toNat, Nat.mul_right_comm (_ * _) p1.y.toNat]

theorem crossTerm_comm (d : U256) (p1 p2 : Point) : crossTerm d p1 p2 = crossTerm d p2 p1 := by
  apply BitVec.eq_of_toNat_eq
  rw [crossTerm_toNat, crossTerm_toNat, crossTermNat_comm]

/-- The denominator of the x coordinate. -/
theorem fadd_one_toNat (d : U256) (p1 p2 : Point) :
    (fadd 1#256 (crossTerm d p1 p2) p25519).toNat =
      (1 + crossTermNat d p1 p2) % p25519.toNat := by
  rw [fadd_toNat _ _ p25519_pos, crossTerm_toNat]
  rfl

/-- The denominator of the y coordinate. -/
theorem fsub_one_toNat (d : U256) (p1 p2 : Point) :
    (fsub 1#256 (crossTerm d p1 p2) p25519).toNat =
      (1 + p25519.toNat - crossTermNat d p1 p2) % p25519.toNat := by
  rw [fsub_toNat _ _ p25519_pos, crossTerm_toNat]
  rfl

/-- A numerator of the law, before its reduction. -/
theorem fadd_fmul_toNat (a b c e : U256) :
    (fadd (fmul a b p25519) (fmul c e p25519) p25519).toNat =
      (a.toNat * b.toNat + c.toNat * e.toNat) % p25519.toNat := by
  rw [fadd_toNat _ _ p25519_pos, fmul_toNat _ _ p25519_pos, fmul_toNat _ _ p25519_pos,
    ← Nat.add_mod]

theorem fermatQuotient_mod (n d p : Nat) : fermatQuotient (n % p) d p = fermatQuotient n d p := by
  rw [fermatQuotient, fermatQuotient, Nat.mod_mul_mod]

theorem ne_zero_of_toNat {a : U256} {n : Nat} (ha : a.toNat = n) (hn : n ≠ 0) : a ≠ 0#256 := by
  rintro rfl
  exact hn ha.symm

theorem Point.eq_of_toNat {p r : Point} (hx : p.x.toNat = r.x.toNat)
    (hy : p.y.toNat = r.y.toNat) : p = r := by
  cases p
  cases r
  rw [Point.mk.injEq]
  exact ⟨BitVec.eq_of_toNat_eq hx, BitVec.eq_of_toNat_eq hy⟩

/-! ### What the addition law answers (R174, R179) -/

/-- With nonzero denominators the law gives the pair of Fermat quotients. -/
theorem padd_ok {d : U256} {p1 p2 : Point}
    (hx : (1 + crossTermNat d p1 p2) % p25519.toNat ≠ 0)
    (hy : (1 + p25519.toNat - crossTermNat d p1 p2) % p25519.toNat ≠ 0) :
    ∃ p : Point,
      p.x.toNat = fermatQuotient (p1.x.toNat * p2.y.toNat + p1.y.toNat * p2.x.toNat)
        ((1 + crossTermNat d p1 p2) % p25519.toNat) p25519.toNat ∧
      p.y.toNat = fermatQuotient (p1.y.toNat * p2.y.toNat + p1.x.toNat * p2.x.toNat)
        ((1 + p25519.toNat - crossTermNat d p1 p2) % p25519.toNat) p25519.toNat ∧
      padd d p1 p2 = .ok p := by
  obtain ⟨x, hx', hdx⟩ :=
    fdiv_ok (fadd (fmul p1.x p2.y p25519) (fmul p1.y p2.x p25519) p25519) two_lt_p25519
      (ne_zero_of_toNat (fadd_one_toNat d p1 p2) hx)
  obtain ⟨y, hy', hdy⟩ :=
    fdiv_ok (fadd (fmul p1.y p2.y p25519) (fmul p1.x p2.x p25519) p25519) two_lt_p25519
      (ne_zero_of_toNat (fsub_one_toNat d p1 p2) hy)
  refine ⟨⟨x, y⟩, ?_, ?_, ?_⟩
  · rw [hx', fadd_fmul_toNat, fermatQuotient_mod, fadd_one_toNat]
  · rw [hy', fadd_fmul_toNat, fermatQuotient_mod, fsub_one_toNat]
  · simp only [padd, hdx, hdy]
    rfl

/-- A zero denominator of either coordinate raises. -/
theorem padd_error {d : U256} {p1 p2 : Point}
    (h : (1 + crossTermNat d p1 p2) % p25519.toNat = 0 ∨
      (1 + p25519.toNat - crossTermNat d p1 p2) % p25519.toNat = 0) :
    padd d p1 p2 = .error .divisionByZero := by
  rw [← fadd_one_toNat, ← fsub_one_toNat] at h
  by_cases hx : fadd 1#256 (crossTerm d p1 p2) p25519 = 0#256
  · simp only [padd, hx, fdiv_zero two_lt_p25519, error_bind]
  · have hy : fsub 1#256 (crossTerm d p1 p2) p25519 = 0#256 :=
      BitVec.eq_of_toNat_eq (h.resolve_left fun h0 => hx (BitVec.eq_of_toNat_eq h0))
    simp only [padd, fdiv_nonzero two_lt_p25519 hx, hy, fdiv_zero two_lt_p25519, ok_bind,
      error_bind]

theorem padd_denominators_ne_zero {d : U256} {p1 p2 p : Point} (h : padd d p1 p2 = .ok p) :
    (1 + crossTermNat d p1 p2) % p25519.toNat ≠ 0 ∧
      (1 + p25519.toNat - crossTermNat d p1 p2) % p25519.toNat ≠ 0 := by
  rw [← not_or]
  intro hzero
  cases (padd_error hzero).symm.trans h

/-- Settles O55: exchanging the points exchanges the operands of each product and sum. -/
theorem additionCommutes : Obligations.AdditionCommutes := by
  intro d p1 p2
  simp only [padd]
  rw [crossTerm_comm d p1 p2, fmul_comm p1.x p2.y, fmul_comm p1.y p2.x, fmul_comm p1.y p2.y,
    fmul_comm p1.x p2.x, fadd_comm (fmul p2.y p1.x p25519)]

theorem fermatQuotient_one (n p : Nat) : fermatQuotient n 1 p = n % p := by
  rw [fermatQuotient, Nat.one_pow, Nat.mul_one]

/-- The identity on the right returns a canonical pair: both denominators are 1 (R175). -/
theorem padd_identity (d : U256) {p : Point} (h : p.Canonical) :
    padd d p identityPoint = .ok p := by
  have hcross : crossTermNat d p identityPoint = 0 := by simp [crossTermNat, identityPoint]
  have hone : 1 % p25519.toNat = 1 := Nat.mod_eq_of_lt (by decide)
  have hx : (1 + crossTermNat d p identityPoint) % p25519.toNat = 1 := by rw [hcross, hone]
  have hy : (1 + p25519.toNat - crossTermNat d p identityPoint) % p25519.toNat = 1 := by
    rw [hcross, Nat.sub_zero, Nat.add_mod_right, hone]
  obtain ⟨r, hrx, hry, hr⟩ := padd_ok (hx.trans_ne one_ne_zero) (hy.trans_ne one_ne_zero)
  rw [hx, fermatQuotient_one] at hrx
  rw [hy, fermatQuotient_one] at hry
  obtain ⟨hpx, hpy⟩ := h
  have hrp : r = p := Point.eq_of_toNat
    (by simp [hrx, identityPoint, Nat.mod_eq_of_lt hpx])
    (by simp [hry, identityPoint, Nat.mod_eq_of_lt hpy])
  rw [hr, hrp]

/-! ### The commands -/

/-- Settles O50. -/
theorem pidnPgenWriteConstants : Obligations.PidnPgenWriteConstants := fun _ _ => ⟨rfl, rfl⟩

theorem retire_qSource_qSource_valid {i : Instr} {s : State} {r r' : QIdx} {p p' : Point}
    {g : Point → Point → Except CmdError State} (h : s.q[r] = some p) (h' : s.q[r'] = some p') :
    retire i s (s.qSource r >>= fun x => s.qSource r' >>= g x) = retire i s (g p p') := by
  rw [retire_qSource_valid h, retire_qSource_valid h']

theorem exec_one_qSource_invalid {i : Instr} {s : State} {r : QIdx} (hi : i.qSources = [r])
    (h : s.q[r] = none) : exec i s = .next (s.raise .invalidRegister (commandWord i)) :=
  exec_qSource_invalid ⟨r, by simp [hi], h⟩

theorem exec_two_qSources_invalid {i : Instr} {s : State} {r r' : QIdx}
    (hi : i.qSources = [r, r']) (h : s.q[r] = none ∨ s.q[r'] = none) :
    exec i s = .next (s.raise .invalidRegister (commandWord i)) := by
  rcases h with h | h
  · exact exec_qSource_invalid ⟨r, by simp [hi], h⟩
  · exact exec_qSource_invalid ⟨r', by simp [hi], h⟩

/-- PADD of valid sources retires with what the addition law answers. -/
theorem exec_padd_valid {qd qs1 qs2 : QIdx} {s : State} {p1 p2 : Point} (h1 : s.q[qs1] = some p1)
    (h2 : s.q[qs2] = some p2) :
    exec (.padd qd qs1 qs2) s = retire (.padd qd qs1 qs2) s
      (padd s.cfg.curveD p1 p2 >>= fun p => .ok (s.setQ qd p)) :=
  retire_qSource_qSource_valid h1 h2

/-- PSUB of valid sources retires with what the law answers for the negated subtrahend. -/
theorem exec_psub_valid {qd qs1 qs2 : QIdx} {s : State} {p1 p2 : Point} (h1 : s.q[qs1] = some p1)
    (h2 : s.q[qs2] = some p2) :
    exec (.psub qd qs1 qs2) s = retire (.psub qd qs1 qs2) s
      (padd s.cfg.curveD p1 (pneg p2) >>= fun p => .ok (s.setQ qd p)) :=
  retire_qSource_qSource_valid h1 h2

theorem retire_padd_ok {i : Instr} {qd : QIdx} {s : State} {p1 p2 p : Point}
    (h : padd s.cfg.curveD p1 p2 = .ok p) :
    retire i s (padd s.cfg.curveD p1 p2 >>= fun p => .ok (s.setQ qd p)) = .next (s.setQ qd p) := by
  rw [h, ok_bind, retire_ok]

theorem retire_padd_error {i : Instr} {qd : QIdx} {s : State} {p1 p2 : Point}
    (h : padd s.cfg.curveD p1 p2 = .error .divisionByZero) :
    retire i s (padd s.cfg.curveD p1 p2 >>= fun p => .ok (s.setQ qd p)) =
      .next (s.raise .divisionByZero (commandWord i)) := by
  rw [h, error_bind, retire_error]

/-- Settles O51: PADD retires with what the law answers for its two sources. -/
theorem paddAddsOrRaises : Obligations.PaddAddsOrRaises := by
  refine fun qd qs1 qs2 s => ⟨fun p1 p2 h1 h2 => ?_, exec_two_qSources_invalid rfl⟩
  rw [exec_padd_valid h1 h2]
  refine ⟨fun ⟨hx, hy⟩ => ?_, fun h => retire_padd_error (padd_error h)⟩
  obtain ⟨p, hpx, hpy, hp⟩ := padd_ok hx hy
  exact ⟨p, hpx, hpy, retire_padd_ok hp⟩

theorem eq_pneg_of_toNat {n p : Point}
    (hx : n.x.toNat = (p25519.toNat - p.x.toNat) % p25519.toNat) (hy : n.y = p.y) :
    n = pneg p :=
  Point.eq_of_toNat (hx.trans (fneg_toNat _ p25519_pos).symm) (congrArg BitVec.toNat hy)

/-- Settles O53: the law is applied to the minuend and the negated subtrahend. -/
theorem psubSubtractsOrRaises : Obligations.PsubSubtractsOrRaises := by
  refine fun qd qs1 qs2 s => ⟨fun p1 p2 n2 h1 h2 hnx hny => ?_, exec_two_qSources_invalid rfl⟩
  rw [exec_psub_valid h1 h2, ← eq_pneg_of_toNat hnx hny]
  refine ⟨fun ⟨hx, hy⟩ => ?_, fun h => retire_padd_error (padd_error h)⟩
  obtain ⟨p, hpx, hpy, hp⟩ := padd_ok hx hy
  exact ⟨p, hpx, hpy, retire_padd_ok hp⟩

/-- Settles O52: a canonical x coordinate is below P25519, so the difference is exact. -/
theorem pnegNegates : Obligations.PnegNegates := fun _ qs1 _ =>
  ⟨fun p ⟨_, _, hq, _⟩ hp =>
    ⟨fneg p.x p25519, fneg_toInt (hq qs1 p hp).1, retire_qSource_valid hp⟩,
    exec_one_qSource_invalid rfl⟩

/-- Settles O54: coordinates are equal when their integers are. -/
theorem peqCompares : Obligations.PeqCompares := by
  refine fun qs1 qs2 s => ⟨fun p1 p2 h1 h2 => ?_, exec_two_qSources_invalid rfl⟩
  have heq : (p1.x == p2.x && p1.y == p2.y) =
      decide (p1.x.toNat = p2.x.toNat ∧ p1.y.toNat = p2.y.toNat) := by
    simp [BitVec.toNat_inj, beq_eq_decide]
  rw [← heq]
  exact retire_qSource_qSource_valid h1 h2

/-- Settles O56: the identity on the left is the identity on the right, by commutativity. -/
theorem identityIsNeutral : Obligations.IdentityIsNeutral := by
  rintro qd qs1 qs2 s p ⟨-, -, hq, -⟩ hp hid
  have hright := padd_identity s.cfg.curveD (hq qs1 p hp)
  have hleft := (additionCommutes s.cfg.curveD identityPoint p).trans hright
  exact ⟨(exec_padd_valid hp hid).trans (retire_padd_ok hright),
    (exec_padd_valid hid hp).trans (retire_padd_ok hleft)⟩

/-! ### The curve in any field (R170, R171, R179) -/

section
variable {F : Type} [Field F] {d x1 y1 x2 y2 x3 y3 : F}

/-- The sum of two points of the curve is on the curve where its denominators are not 0, for any d.
The coefficients come from writing the cleared equation of the sum in `y1² - x1²` and `y2² - x2²`
and replacing these by the right sides of the two hypotheses. -/
theorem curve_add (h1 : y1 ^ 2 = 1 + d * x1 ^ 2 * y1 ^ 2 + x1 ^ 2)
    (h2 : y2 ^ 2 = 1 + d * x2 ^ 2 * y2 ^ 2 + x2 ^ 2)
    (hdx : 1 + d * x1 * x2 * y1 * y2 ≠ 0) (hdy : 1 - d * x1 * x2 * y1 * y2 ≠ 0)
    (hx : x3 * (1 + d * x1 * x2 * y1 * y2) = x1 * y2 + y1 * x2)
    (hy : y3 * (1 - d * x1 * x2 * y1 * y2) = y1 * y2 + x1 * x2) :
    y3 ^ 2 = 1 + d * x3 ^ 2 * y3 ^ 2 + x3 ^ 2 := by
  have hclear : (y1 * y2 + x1 * x2) ^ 2 * (1 + d * x1 * x2 * y1 * y2) ^ 2 =
      (1 + d * x1 * x2 * y1 * y2) ^ 2 * (1 - d * x1 * x2 * y1 * y2) ^ 2 +
        d * (x1 * y2 + y1 * x2) ^ 2 * (y1 * y2 + x1 * x2) ^ 2 +
        (x1 * y2 + y1 * x2) ^ 2 * (1 - d * x1 * x2 * y1 * y2) ^ 2 := by
    linear_combination
      ((y2 ^ 2 - x2 ^ 2) * (1 + (d * x1 * x2 * y1 * y2) ^ 2) -
        d * x2 ^ 2 * y2 ^ 2 * (y1 ^ 2 - x1 ^ 2 + 1 + d * x1 ^ 2 * y1 ^ 2)) * h1 +
      ((1 + d * x1 ^ 2 * y1 ^ 2) * (1 + (d * x1 * x2 * y1 * y2) ^ 2) -
        d * x1 ^ 2 * y1 ^ 2 * (y2 ^ 2 - x2 ^ 2 + 1 + d * x2 ^ 2 * y2 ^ 2)) * h2
  rw [← hx, ← hy] at hclear
  refine mul_right_cancel₀ (pow_ne_zero 2 (mul_ne_zero hdx hdy)) ?_
  linear_combination hclear

theorem isSquare_of_sq_eq_mul_sq {a b : F} (hb : b ≠ 0) (h : a ^ 2 = d * b ^ 2) : IsSquare d := by
  rw [isSquare_iff_exists_sq]
  exact ⟨a / b, by rw [div_pow, h, mul_div_cancel_right₀ _ (pow_ne_zero 2 hb)]⟩

/-- The key equation of the completeness proof: were the cross term 1 or -1, d would be a quotient
of two squares. -/
theorem sq_eq_of_cross_sq_eq_one {i s : F} (hi : i ^ 2 = -1) (hs : s ^ 2 = 1)
    (h1 : y1 ^ 2 = 1 + d * x1 ^ 2 * y1 ^ 2 + x1 ^ 2)
    (h2 : y2 ^ 2 = 1 + d * x2 ^ 2 * y2 ^ 2 + x2 ^ 2) (ht : (d * x1 * x2 * y1 * y2) ^ 2 = 1) :
    (i * x1 + d * x1 * x2 * y1 * y2 * s * y1) ^ 2 = d * (x1 * y1 * (i * x2 + s * y2)) ^ 2 := by
  linear_combination (x1 ^ 2 - d * x1 ^ 2 * y1 ^ 2 * x2 ^ 2) * hi +
    ((d * x1 * x2 * y1 * y2) ^ 2 * y1 ^ 2 - d * x1 ^ 2 * y1 ^ 2 * y2 ^ 2) * hs +
    (y1 ^ 2 - 1) * ht + h1 - d * x1 ^ 2 * y1 ^ 2 * h2

/-- The law is complete where -1 is a square and d is none: the cross term of two points of the
curve is neither 1 nor -1. -/
theorem cross_sq_ne_one (hminus : IsSquare (-1 : F)) (htwo : (2 : F) ≠ 0) (hd : ¬ IsSquare d)
    (h1 : y1 ^ 2 = 1 + d * x1 ^ 2 * y1 ^ 2 + x1 ^ 2)
    (h2 : y2 ^ 2 = 1 + d * x2 ^ 2 * y2 ^ 2 + x2 ^ 2) : (d * x1 * x2 * y1 * y2) ^ 2 ≠ 1 := by
  intro ht
  obtain ⟨i, hi⟩ := hminus
  have hzero : ∀ s : F, s ^ 2 = 1 → x1 * y1 * (i * x2 + s * y2) = 0 := fun s hs =>
    not_not.mp fun hne => hd (isSquare_of_sq_eq_mul_sq hne
      (sq_eq_of_cross_sq_eq_one (by rw [hi, sq]) hs h1 h2 ht))
  have hcancel : 2 * (d * x1 * x2 * y1 * y2) = 0 := by
    linear_combination d * x2 * (hzero 1 (by ring) - hzero (-1) (by ring))
  rw [(mul_eq_zero.mp hcancel).resolve_left htwo] at ht
  simp at ht

theorem denominators_ne_zero (hminus : IsSquare (-1 : F)) (htwo : (2 : F) ≠ 0)
    (hd : ¬ IsSquare d)
    (h1 : y1 ^ 2 = 1 + d * x1 ^ 2 * y1 ^ 2 + x1 ^ 2)
    (h2 : y2 ^ 2 = 1 + d * x2 ^ 2 * y2 ^ 2 + x2 ^ 2) :
    1 + d * x1 * x2 * y1 * y2 ≠ 0 ∧ 1 - d * x1 * x2 * y1 * y2 ≠ 0 :=
  mul_ne_zero_iff.mp fun h => cross_sq_ne_one hminus htwo hd h1 h2 (by linear_combination -h)

end

/-! ### The curve modulo `P25519` -/

theorem onCurve_iff_cast (d : U256) (p : Point) :
    OnCurve d p ↔ (p.y.toNat : ZMod p25519.toNat) ^ 2 =
      1 + d.toNat * (p.x.toNat : ZMod p25519.toNat) ^ 2 * p.y.toNat ^ 2 + p.x.toNat ^ 2 := by
  rw [OnCurve, ← ZMod.natCast_eq_natCast_iff']
  push_cast
  rfl

theorem crossTermNat_cast (d : U256) (p1 p2 : Point) :
    (crossTermNat d p1 p2 : ZMod p25519.toNat) =
      d.toNat * p1.x.toNat * p2.x.toNat * p1.y.toNat * p2.y.toNat := by
  rw [crossTermNat, ZMod.natCast_mod]
  push_cast
  rfl

theorem xDenominator_cast (d : U256) (p1 p2 : Point) :
    (((1 + crossTermNat d p1 p2) % p25519.toNat : Nat) : ZMod p25519.toNat) =
      1 + d.toNat * p1.x.toNat * p2.x.toNat * p1.y.toNat * p2.y.toNat := by
  rw [ZMod.natCast_mod, Nat.cast_add, Nat.cast_one, crossTermNat_cast]

theorem yDenominator_cast (d : U256) (p1 p2 : Point) :
    (((1 + p25519.toNat - crossTermNat d p1 p2) % p25519.toNat : Nat) : ZMod p25519.toNat) =
      1 - d.toNat * p1.x.toNat * p2.x.toNat * p1.y.toNat * p2.y.toNat := by
  have hlt : crossTermNat d p1 p2 < p25519.toNat := Nat.mod_lt _ p25519_pos
  rw [ZMod.natCast_mod, Nat.cast_sub (by omega), Nat.cast_add, Nat.cast_one, ZMod.natCast_self,
    add_zero, crossTermNat_cast]

theorem residue_ne_zero_iff_cast {n p : Nat} : n % p ≠ 0 ↔ ((n % p : Nat) : ZMod p) ≠ 0 := by
  rw [ZMod.natCast_mod, Ne, Ne, ZMod.natCast_eq_zero_iff, Nat.dvd_iff_mod_eq_zero]

/-- The Fermat quotient by a nonzero residue, as an equation in the field. -/
theorem fermatQuotient_cast_mul {p n b : Nat} (hp : p.Prime) (hb : b % p ≠ 0) :
    (fermatQuotient n (b % p) p : ZMod p) * ((b % p : Nat) : ZMod p) = n := by
  have h := fermatQuotient_mul hp (Nat.mod_lt n hp.pos) (Nat.mod_lt b hp.pos) hb
  rw [fermatQuotient_mod, ← ZMod.natCast_eq_natCast_iff', Nat.cast_mul] at h
  exact h

/-- What the law gives for two points of the curve is on the curve (R171). -/
theorem onCurve_padd {d : U256} {p1 p2 p : Point} (h1 : OnCurve d p1) (h2 : OnCurve d p2)
    (h : padd d p1 p2 = .ok p) : OnCurve d p := by
  have : Fact p25519.toNat.Prime := ⟨Prime.p25519_prime⟩
  obtain ⟨hdx, hdy⟩ := padd_denominators_ne_zero h
  obtain ⟨r, hx, hy, hr⟩ := padd_ok hdx hdy
  cases hr.symm.trans h
  have hx' := fermatQuotient_cast_mul Prime.p25519_prime hdx
    (n := p1.x.toNat * p2.y.toNat + p1.y.toNat * p2.x.toNat)
  have hy' := fermatQuotient_cast_mul Prime.p25519_prime hdy
    (n := p1.y.toNat * p2.y.toNat + p1.x.toNat * p2.x.toNat)
  rw [← hx, xDenominator_cast, Nat.cast_add, Nat.cast_mul, Nat.cast_mul] at hx'
  rw [← hy, yDenominator_cast, Nat.cast_add, Nat.cast_mul, Nat.cast_mul] at hy'
  rw [residue_ne_zero_iff_cast, xDenominator_cast] at hdx
  rw [residue_ne_zero_iff_cast, yDenominator_cast] at hdy
  rw [onCurve_iff_cast] at h1 h2 ⊢
  exact curve_add h1 h2 hdx hdy hx' hy'

theorem onCurve_identity (d : U256) : OnCurve d identityPoint := by
  simp [OnCurve, identityPoint]

/-- Negating x leaves its square (R177). -/
theorem onCurve_pneg {d : U256} {p : Point} (hx : p.x.toNat < p25519.toNat) (h : OnCurve d p) :
    OnCurve d (pneg p) := by
  have hcast : (((pneg p).x.toNat : Nat) : ZMod p25519.toNat) = -p.x.toNat := by
    rw [pneg, fneg_toNat _ p25519_pos, ZMod.natCast_mod, Nat.cast_sub hx.le, ZMod.natCast_self,
      zero_sub]
  rw [onCurve_iff_cast] at h ⊢
  rw [hcast, neg_sq]
  exact h

theorem not_isSquare_cast {p d : Nat} (hp : p.Prime) (h : ∀ n : Nat, n ^ 2 % p ≠ d % p) :
    ¬ IsSquare (d : ZMod p) := by
  have : NeZero p := ⟨hp.ne_zero⟩
  rintro ⟨r, hr⟩
  refine h r.val ((ZMod.natCast_eq_natCast_iff' _ _ p).mp ?_)
  rw [Nat.cast_pow, ZMod.natCast_zmod_val, hr, sq]

theorem neg_one_isSquare [Fact p25519.toNat.Prime] : IsSquare (-1 : ZMod p25519.toNat) :=
  ZMod.exists_sq_eq_neg_one_iff.mpr (by decide)

theorem two_ne_zero_p25519 : (2 : ZMod p25519.toNat) ≠ 0 := by
  have h : ((2 % p25519.toNat : Nat) : ZMod p25519.toNat) ≠ 0 :=
    residue_ne_zero_iff_cast.mp (by decide)
  rwa [ZMod.natCast_mod, Nat.cast_ofNat] at h

/-- For a d that is no square the law gives a pair for all points of the curve (R179). -/
theorem padd_completes {d : U256} {p1 p2 : Point}
    (hd : ∀ n : Nat, n ^ 2 % p25519.toNat ≠ d.toNat % p25519.toNat) (h1 : OnCurve d p1)
    (h2 : OnCurve d p2) : ∃ p, padd d p1 p2 = .ok p := by
  have : Fact p25519.toNat.Prime := ⟨Prime.p25519_prime⟩
  rw [onCurve_iff_cast] at h1 h2
  obtain ⟨hx, hy⟩ := denominators_ne_zero neg_one_isSquare two_ne_zero_p25519
    (not_isSquare_cast Prime.p25519_prime hd) h1 h2
  rw [← xDenominator_cast, ← residue_ne_zero_iff_cast] at hx
  rw [← yDenominator_cast, ← residue_ne_zero_iff_cast] at hy
  obtain ⟨p, -, -, hp⟩ := padd_ok hx hy
  exact ⟨p, hp⟩

/-! ### The curve invariant of the Q file (R171) -/

/-- Every valid Q register holds a point of the curve. -/
def State.QOnCurve (s : State) : Prop :=
  ∀ (i : QIdx) (p : Point), s.q[i] = some p → OnCurve s.cfg.curveD p

theorem qOnCurve_setQ {s : State} (h : s.QOnCurve) (r : QIdx) {p : Point}
    (hp : OnCurve s.cfg.curveD p) : (s.setQ r p).QOnCurve := by
  intro j a ha
  rw [State.setQ_get] at ha
  split at ha
  · cases ha; exact hp
  · exact h j a ha

theorem qOnCurve_afterReset (s : State) : s.afterReset.QOnCurve := by
  intro j a ha
  simp at ha

/-- A command without a Q destination leaves the Q file and d as they are. -/
theorem qOnCurve_of_qDest_none {i : Instr} {s t : State} (hi : i.qDest = none) (h : s.QOnCurve)
    (hx : exec i s = .next t) : t.QOnCurve := by
  obtain ⟨-, -, hq, -, hcfg, -⟩ := commandFrame i s t hx
  intro j a ha
  rw [hcfg]
  rw [hq j (by simp [hi])] at ha
  exact h j a ha

/-- PADD and PSUB: the law's pair is on the curve, and a raise writes no Q register. -/
theorem retire_padd_qOnCurve {i : Instr} {qd : QIdx} {s t : State} {p1 p2 : Point}
    (h : s.QOnCurve) (h1 : OnCurve s.cfg.curveD p1) (h2 : OnCurve s.cfg.curveD p2)
    (hx : retire i s (padd s.cfg.curveD p1 p2 >>= fun p => .ok (s.setQ qd p)) = .next t) :
    t.QOnCurve := by
  rcases padd_cases s.cfg.curveD p1 p2 with herr | ⟨p, hp, -⟩
  · cases (retire_padd_error herr).symm.trans hx
    exact h
  · cases (retire_padd_ok hp).symm.trans hx
    exact qOnCurve_setQ h qd (onCurve_padd h1 h2 hp)

/-- Every command but PLD keeps the Q file on the curve when its Q sources are valid. -/
theorem exec_valid_qOnCurve {i : Instr} {s t : State} (hi : ∀ qd ksx ksy, i ≠ .pld qd ksx ksy)
    (hcan : s.Canonical) (hgen : OnCurve s.cfg.curveD ⟨s.cfg.genX, s.cfg.genY⟩)
    (h : s.QOnCurve) (hv : ∀ r ∈ i.qSources, ∃ p, s.q[r] = some p) (hx : exec i s = .next t) :
    t.QOnCurve := by
  cases i with
  | pld qd ksx ksy => exact absurd rfl (hi qd ksx ksy)
  | pidn qd =>
    cases hx
    exact qOnCurve_setQ h qd (onCurve_identity _)
  | pgen qd =>
    cases hx
    exact qOnCurve_setQ h qd hgen
  | padd qd qs1 qs2 =>
    obtain ⟨p1, h1⟩ := hv qs1 (by simp [Instr.qSources])
    obtain ⟨p2, h2⟩ := hv qs2 (by simp [Instr.qSources])
    exact retire_padd_qOnCurve h (h qs1 p1 h1) (h qs2 p2 h2) ((exec_padd_valid h1 h2).symm.trans hx)
  | psub qd qs1 qs2 =>
    obtain ⟨p1, h1⟩ := hv qs1 (by simp [Instr.qSources])
    obtain ⟨p2, h2⟩ := hv qs2 (by simp [Instr.qSources])
    obtain ⟨-, -, hq, -⟩ := hcan
    obtain ⟨hx2, -⟩ := hq qs2 p2 h2
    exact retire_padd_qOnCurve h (h qs1 p1 h1) (onCurve_pneg hx2 (h qs2 p2 h2))
      ((exec_psub_valid h1 h2).symm.trans hx)
  | pneg qd qs1 =>
    obtain ⟨p, hp⟩ := hv qs1 (by simp [Instr.qSources])
    obtain ⟨-, -, hq, -⟩ := hcan
    obtain ⟨hpx, -⟩ := hq qs1 p hp
    cases (retire_qSource_valid hp).symm.trans hx
    exact qOnCurve_setQ h qd (onCurve_pneg hpx (h qs1 p hp))
  | _ => exact qOnCurve_of_qDest_none rfl h hx

/-- Every command but PLD keeps the Q file on the curve: with an invalid source it only raises. -/
theorem exec_qOnCurve {i : Instr} {s t : State} (hi : ∀ qd ksx ksy, i ≠ .pld qd ksx ksy)
    (hcan : s.Canonical) (hgen : OnCurve s.cfg.curveD ⟨s.cfg.genX, s.cfg.genY⟩)
    (h : s.QOnCurve) (hx : exec i s = .next t) : t.QOnCurve := by
  by_cases hinv : ∃ r ∈ i.qSources, s.q[r] = none
  · cases (exec_qSource_invalid hinv).symm.trans hx
    exact h
  · push Not at hinv
    exact exec_valid_qOnCurve hi hcan hgen h
      (fun r hr => Option.ne_none_iff_exists'.mp (hinv r hr)) hx

/-- Settles O57: a command that is no PLD keeps the Q file on the curve, reset empties it, and no
other host event touches it or d. -/
theorem pointsStayOnCurve : Obligations.PointsStayOnCurve := by
  intro s t hcan hgen h hpld hstep
  cases step_cases hstep with
  | idle | read | writeK | clearError | ignored | illegal => exact h
  | reset => exact qOnCurve_afterReset _
  | command rest w i _ hp _ hd hx =>
    refine exec_qOnCurve (s := { s with pending := rest, rsp := none }) ?_ hcan hgen h hx
    rintro qd ksx ksy rfl
    exact hpld w rest qd ksx ksy hp hd

/-! ### Completeness of the point commands (R179) -/

/-- Settles O58: the law completes for all points of the curve, and no other point command can raise
once its sources are valid. -/
theorem pointCommandsCompleteOnCurve : Obligations.PointCommandsCompleteOnCurve := by
  rintro i s hi hd ⟨-, -, hq, -⟩ h hsrc
  have hv : ∀ r ∈ i.qSources, ∃ p, s.q[r] = some p := fun r hr =>
    Option.ne_none_iff_exists'.mp (hsrc r hr)
  cases i with
  | pidn qd => exact ⟨_, rfl, rfl⟩
  | pgen qd => exact ⟨_, rfl, rfl⟩
  | pneg qd qs1 =>
    obtain ⟨p, hp⟩ := hv qs1 (by simp [Instr.qSources])
    exact ⟨_, retire_qSource_valid hp, rfl⟩
  | peq qs1 qs2 =>
    obtain ⟨p1, h1⟩ := hv qs1 (by simp [Instr.qSources])
    obtain ⟨p2, h2⟩ := hv qs2 (by simp [Instr.qSources])
    exact ⟨_, retire_qSource_qSource_valid h1 h2, rfl⟩
  | padd qd qs1 qs2 =>
    obtain ⟨p1, h1⟩ := hv qs1 (by simp [Instr.qSources])
    obtain ⟨p2, h2⟩ := hv qs2 (by simp [Instr.qSources])
    obtain ⟨p, hp⟩ := padd_completes hd (h qs1 p1 h1) (h qs2 p2 h2)
    exact ⟨_, (exec_padd_valid h1 h2).trans (retire_padd_ok hp), rfl⟩
  | psub qd qs1 qs2 =>
    obtain ⟨p1, h1⟩ := hv qs1 (by simp [Instr.qSources])
    obtain ⟨p2, h2⟩ := hv qs2 (by simp [Instr.qSources])
    obtain ⟨hx2, -⟩ := hq qs2 p2 h2
    obtain ⟨p, hp⟩ := padd_completes hd (h qs1 p1 h1) (onCurve_pneg hx2 (h qs2 p2 h2))
    exact ⟨_, (exec_psub_valid h1 h2).trans (retire_padd_ok hp), rfl⟩
  | _ => cases hi

end Sys2Proof.Machine
end

section
/-! PROOFS. The errors: every step completes, an error is precise, errors do not nest, the latch
discards commands only, and each error of the table of R196 is raised by some command
(60_exceptions.md). -/

namespace Sys2Proof.Machine

/-! ### Every step completes (R207, R226) -/

theorem exec_next (i : Instr) (s : State) : ∃ t, exec i s = .next t := by
  obtain ⟨r, hr⟩ := exec_retires i s
  rw [hr]
  exact retire_next i s r

theorem execute_next (w : U64) (s : State) : ∃ t, execute w s = .next t := by
  cases hd : decode w with
  | ok i =>
    rw [execute_legal hd]
    exact exec_next i s
  | error r => exact ⟨_, execute_illegal hd s⟩

theorem cmdWrite_next (w : U64) (s : State) : ∃ t, cmdWrite w s = .next t := by
  by_cases he : s.err = none
  · rw [cmdWrite_open he]
    exact execute_next w s
  · exact ⟨s, cmdWrite_latched he w⟩

theorem hostWrite_next (a : BitVec 5) (v : U64) (s : State) : ∃ t, hostWrite a v s = .next t := by
  unfold hostWrite
  split_ifs
  · exact ⟨_, rfl⟩
  · exact cmdWrite_next v s
  · exact ⟨_, rfl⟩
  · exact ⟨_, rfl⟩

theorem step_next (s : State) : ∃ t, step s = .next t := by
  cases hp : s.pending with
  | nil => exact ⟨_, step_idle hp⟩
  | cons ev rest =>
    rw [step_serves hp]
    cases ev with
    | write a v => exact hostWrite_next a v _
    | read | reset | resetDuringCommand => exact ⟨_, rfl⟩

theorem step_cfg {s t : State} (h : step s = .next t) : t.cfg = s.cfg := by
  cases step_cases h with
  | command rest w i _ _ _ _ hx =>
    obtain ⟨-, -, -, -, hcfg, -⟩ := commandFrame i _ t hx
    exact hcfg
  | idle | read | writeK | clearError | ignored | reset | illegal => rfl

/-- Settles O17: every command retires, and it stays inside its frame, which no wired constant is
in. -/
theorem everyStepCompletes : Obligations.EveryStepCompletes := by
  intro s
  obtain ⟨t, h⟩ := step_next s
  exact ⟨t, h, step_cfg h⟩

/-! ### Raising an error and leaving the latch (R197 to R202) -/

/-- All that executing a written word can do: complete as a command does, or raise an error with the
word as it was written. -/
theorem execute_cases {w : U64} {s t : State} (h : execute w s = .next t) :
    (∃ i, decode w = .ok i ∧ Completes i s t) ∨ ∃ e, t = s.raise e w := by
  cases hd : decode w with
  | ok i =>
    rw [execute_legal hd] at h
    rcases exec_cases i s with ⟨u, hu, hc⟩ | ⟨e, -, hu⟩
    · cases hu.symm.trans h
      exact .inl ⟨i, rfl, hc⟩
    · cases hu.symm.trans h
      exact .inr ⟨e, by rw [eq_commandWord_of_decode hd]⟩
  | error r =>
    cases (execute_illegal hd s).symm.trans h
    exact .inr ⟨.illegalCommand, rfl⟩

/-- Settles O21: a word that completes leaves `ERR` at 0, so the word raised, and raising writes
`ERR` and `ECMD` only. -/
theorem errorsArePrecise : Obligations.ErrorsArePrecise := by
  intro s t w e rest hp he hstep herr
  rw [step_command hp, cmdWrite_open (by exact he)] at hstep
  rcases execute_cases hstep with ⟨i, -, hc⟩ | ⟨e', rfl⟩
  · obtain ⟨hkeep, -⟩ := hc.err_ecmd
    cases herr.symm.trans (hkeep.trans he)
  · cases herr
    rfl

/-- Settles O22: only a raise, the clearing of the latch and reset write `ERR`, and a raise needs
`ERR` to be 0. -/
theorem errorsDoNotNest : Obligations.ErrorsDoNotNest := by
  intro s t hstep hne
  cases step_cases hstep with
  | idle | read | writeK | ignored => exact absurd rfl hne
  | clearError rest v hp => exact .inr ⟨rfl, rfl, rest, .inl ⟨v, hp⟩⟩
  | reset rest hp => exact .inr ⟨rfl, rfl, rest, .inr hp⟩
  | illegal rest w _ hp he _ => exact .inl ⟨he, w, rest, hp⟩
  | command rest w _ _ hp he _ _ => exact .inl ⟨he, w, rest, hp⟩

/-- Settles O8: the latch is tested by a `CMD` write alone. -/
theorem latchDiscardsOnlyCommands : Obligations.LatchDiscardsOnlyCommands :=
  fun _ _ he => ⟨fun w hp => (step_command hp).trans (cmdWrite_latched (by exact he) w),
    fun _ _ _ hp => step_write_k hp, fun _ hp => step_read hp, fun _ hp => step_write_errclr hp,
    fun _ _ ha hp => step_write_ignored ha hp⟩

/-! ### The table of R196 is a table of opcodes -/

/-- Every command is what one row of R84, that of its opcode, builds from its word. -/
theorem row_of_command (i : Instr) :
    ∃ r ∈ opcodeTable, opcodeField (encode i) = opcodeField r.pattern ∧ r.build (encode i) = i := by
  have hd : decode (commandWord i) = .ok i := encodeThenDecode i
  obtain ⟨hup, r, hr, hs⟩ := (decode_ok_iff_selected _).mp ⟨i, hd⟩
  have hb := (decode_of_selects hup hr hs).symm.trans hd
  rw [lowHalf_commandWord] at hs hb
  obtain ⟨hop, -⟩ := (selects_iff_wordWellFormed hr _).mp hs
  exact ⟨r, hr, hop, Except.ok.inj hb⟩

/-- Each row builds commands of one constructor, and the table of R196 goes by the constructor. -/
theorem mayRaise_build (e : CmdError) :
    ∀ r ∈ opcodeTable, ∀ w w', (r.build w).mayRaise e = (r.build w').mayRaise e := by
  simp [opcodeTable, moveRows, fieldRows, pointRows, Instr.mayRaise]

/-- The table of R196 does not look at a command's operands. -/
theorem mayRaise_eq_of_opcode {i i' : Instr} (e : CmdError)
    (h : opcodeField (encode i) = opcodeField (encode i')) : i.mayRaise e = i'.mayRaise e := by
  obtain ⟨r, hr, hop, hb⟩ := row_of_command i
  obtain ⟨r', hr', hop', hb'⟩ := row_of_command i'
  obtain rfl : r = r' :=
    List.inj_on_of_nodup_map opcodes_nodup hr hr' (hop.symm.trans (h.trans hop'))
  rw [← hb, ← hb']
  exact mayRaise_build e r hr _ _

/-- A command run with no error pending raises only what its row of R196 allows. -/
theorem mayRaise_of_raised {i : Instr} {s t : State} {e : CmdError} (he : s.err = none)
    (hx : exec i s = .next t) (ht : t.err = some e) : i.mayRaise e = true := by
  rcases exec_cases i s with ⟨u, hu, hc⟩ | ⟨e', hr, hu⟩
  · cases hu.symm.trans hx
    obtain ⟨hkeep, -⟩ := hc.err_ecmd
    cases ht.symm.trans (hkeep.trans he)
  · cases hu.symm.trans hx
    cases ht
    exact hr

/-! ### Every error of the table of R196 is raised -/

/-- Some command with the opcode of `i` raises `e` in some state with no error pending. -/
def CanRaise (i : Instr) (e : CmdError) : Prop :=
  ∃ (i' : Instr) (s t : State), opcodeField (encode i') = opcodeField (encode i) ∧
    s.err = none ∧ exec i' s = .next t ∧ t.err = some e

theorem canRaise_of_exec {i i' : Instr} {s : State} {e : CmdError}
    (hop : opcodeField (encode i') = opcodeField (encode i)) (hs : s.err = none)
    (hx : exec i' s = .next (s.raise e (commandWord i'))) : CanRaise i e :=
  ⟨i', s, _, hop, hs, hx, rfl⟩

/-- A command that can raise InvalidRegister names a source. -/
theorem sources_of_mayRaise_invalidRegister {i : Instr}
    (h : i.mayRaise .invalidRegister = true) : i.fSources ≠ [] ∨ i.qSources ≠ [] := by
  cases i with
  | fst | fadd | fsub | fneg | fmul | fscl | fscli | fdiv | fexp | feq =>
    exact .inl (List.cons_ne_nil _ _)
  | pstx | psty | padd | pneg | psub | peq => exact .inr (List.cons_ne_nil _ _)
  | modld | fld | fseti | pld | pidn | pgen => cases h

/-- After reset no source is valid. -/
theorem canRaise_invalidRegister {i : Instr} (h : i.mayRaise .invalidRegister = true) :
    CanRaise i .invalidRegister := by
  refine canRaise_of_exec (s := State.reset) rfl rfl ?_
  rcases sources_of_mayRaise_invalidRegister h with h | h
  · obtain ⟨r, hr⟩ := List.exists_mem_of_ne_nil _ h
    exact exec_fSource_invalid ⟨r, hr, Vector.getElem_replicate _⟩
  · obtain ⟨r, hr⟩ := List.exists_mem_of_ne_nil _ h
    exact exec_qSource_invalid ⟨r, hr, Vector.getElem_replicate _⟩

/-- A state whose F0 is valid and 0, with modulus `m`. -/
def zeroElement (m : U256) : State := (State.reset.loadModulus m).setF 0 0#256

theorem zeroElement_f (m : U256) : (zeroElement m).f[(0 : FIdx)] = some 0#256 :=
  State.setF_get_same ..

/-- The register K0 is 0 after reset, and a division needs a modulus above 2. -/
theorem canRaise_invalidModulus {i : Instr} (h : i.mayRaise .invalidModulus = true) :
    CanRaise i .invalidModulus := by
  cases i with
  | modld ks =>
    exact canRaise_of_exec (i' := .modld 0) (s := State.reset) (by simp [encode]) rfl
      ((modldLoadsOrRaises 0 State.reset).2 (Vector.getElem_replicate _))
  | fdiv fd fs1 fs2 =>
    obtain ⟨-, -, hsmall⟩ := (fdivDividesOrRaises 0 0 0 (zeroElement 2#256)).1 0#256 0#256
      (zeroElement_f _) (zeroElement_f _)
    exact canRaise_of_exec (i' := .fdiv 0 0 0) (by simp [encode]) rfl (hsmall (by decide))
  | _ => cases h

/-- The literal -32768 is negative. -/
theorem canRaise_representationOverflow {i : Instr}
    (h : i.mayRaise .representationOverflow = true) : CanRaise i .representationOverflow := by
  cases i with
  | fseti fd imm =>
    exact canRaise_of_exec (i' := .fseti 0 0x8000#16) (s := State.reset) (by simp [encode]) rfl
      ((fsetiConvertsOrRaises 0 0x8000#16 State.reset).2 (by decide))
  | fscli fd fs1 imm =>
    obtain ⟨-, hnegative⟩ := (fscliScalesOrRaises 0 0 0x8000#16 (zeroElement p25519)).1 0#256
      (zeroElement_f _)
    exact canRaise_of_exec (i' := .fscli 0 0 0x8000#16) (by simp [encode]) rfl
      (hnegative (by decide))
  | _ => cases h

/-- The point (1, y) with d·y = -1 modulo `P25519` for the d of `State.reset`. -/
def oppositePoint : Point :=
  ⟨1#256, 0x3f6f812deb2a31bcd4e9deeb32463099f4a22967bd86abd1da1f0d89323607aa#256⟩

/-- Two valid points whose cross term is -1: the sum has the denominator 0 for x, and the
difference, whose cross term is 1, has it for y. -/
def zeroDenominators : State := (State.reset.setQ 0 ⟨1#256, 1#256⟩).setQ 1 oppositePoint

theorem zeroDenominators_q0 : zeroDenominators.q[(0 : QIdx)] = some ⟨1#256, 1#256⟩ := rfl

theorem zeroDenominators_q1 : zeroDenominators.q[(1 : QIdx)] = some oppositePoint :=
  State.setQ_get_same ..

theorem padd_zeroDenominators :
    padd zeroDenominators.cfg.curveD ⟨1#256, 1#256⟩ oppositePoint = .error .divisionByZero :=
  padd_error (.inl (by decide +kernel))

theorem psub_zeroDenominators :
    padd zeroDenominators.cfg.curveD ⟨1#256, 1#256⟩ (pneg oppositePoint) =
      .error .divisionByZero :=
  padd_error (.inr (by decide +kernel))

/-- A division by the residue 0, and the addition law with a zero denominator. -/
theorem canRaise_divisionByZero {i : Instr} (h : i.mayRaise .divisionByZero = true) :
    CanRaise i .divisionByZero := by
  cases i with
  | fdiv fd fs1 fs2 =>
    obtain ⟨-, hzero, -⟩ := (fdivDividesOrRaises 0 0 0 (zeroElement p25519)).1 0#256 0#256
      (zeroElement_f _) (zeroElement_f _)
    exact canRaise_of_exec (i' := .fdiv 0 0 0) (by simp [encode]) rfl (hzero two_lt_p25519 rfl)
  | padd qd qs1 qs2 =>
    exact canRaise_of_exec (i' := .padd 2 0 1) (by simp [encode]) rfl
      ((exec_padd_valid zeroDenominators_q0 zeroDenominators_q1).trans
        (retire_padd_error padd_zeroDenominators))
  | psub qd qs1 qs2 =>
    exact canRaise_of_exec (i' := .psub 2 0 1) (by simp [encode]) rfl
      ((exec_psub_valid zeroDenominators_q0 zeroDenominators_q1).trans
        (retire_padd_error psub_zeroDenominators))
  | _ => cases h

/-- IllegalCommand belongs to the decode step (R196). -/
theorem mayRaise_illegalCommand (i : Instr) : i.mayRaise .illegalCommand = false := by
  cases i <;> rfl

theorem canRaise_of_mayRaise {i : Instr} {e : CmdError} (h : i.mayRaise e = true) :
    CanRaise i e := by
  cases e with
  | invalidModulus => exact canRaise_invalidModulus h
  | divisionByZero => exact canRaise_divisionByZero h
  | representationOverflow => exact canRaise_representationOverflow h
  | illegalCommand => exact absurd h (by simp [mayRaise_illegalCommand])
  | invalidRegister => exact canRaise_invalidRegister h

/-- Settles O23: each yes of the table has a state in which the error is raised, and a command
raises only what the table, which depends on the opcode alone, allows. -/
theorem raiseTable : Obligations.RaiseTable := by
  refine fun i e => ⟨canRaise_of_mayRaise, fun ⟨i', s, t, hop, hs, hx, ht⟩ => ?_⟩
  rw [← mayRaise_eq_of_opcode e hop]
  exact mayRaise_of_raised hs hx ht

end Sys2Proof.Machine
end
